-- ==== Sys2Proof/Word.lean ====
section
/-! DEFINITION. The word types of the DFE (spec/00_scope.md rule R11: every quantity is an unsigned number, a `uN` is in
0 .. 2^N - 1, bit 0 is the least significant bit). -/

namespace Sys2Proof

/-- An 8-bit byte of one of the spaces of spec/10_state.md rule R37. -/
abbrev Byte := BitVec 8

/-- A 32-bit word: a command word (R91), a CSR (R35), a Histogram counter or a packed entry (R38). -/
abbrev Word := BitVec 32

/-- A one-bit field of the wire or of a register, as a number (`FINAL`, `BFINAL`, `BF`). -/
abbrev bitNat (b : Bool) : Nat := b.toNat

end Sys2Proof
end

