-- ==== Sys2Proof/Syntax.lean ====
section
/-! DEFINITION. The instructions: one constructor per row of spec/opcode_table.json, 41 rows in five formats
(spec/30_encoding.md rule R110). -/

namespace Sys2Proof

/-- The five formats of the table (spec/30_encoding.md rule R110): a command word, a UPC value, the 3-bit block header, a
code-length token, a packed Code Table entry. -/
inductive Format where
  | s
  | upc
  | blkhdr3
  | clsym
  | packed32
deriving DecidableEq, Repr

/-- The instructions of the DFE. Commands first (format S, R92), then the micro-operations in the order of the UPC table
(format UPC, spec/10_state.md rule R30), then the wire items (R98, R101, R96). -/
inductive Instr where
  /-- RESET, OP 0x1 (R92, R240). -/
  | reset
  /-- WRITE_BLOCK, OP 0x2 (R92, R210): the final-block flag and the block length. -/
  | writeBlock (final : Bool) (len : BitVec 16)
  /-- CLOSE, OP 0x3 (R92, R241). -/
  | close
  /-- READ_ALL, OP 0x4 (R92, R242). -/
  | readAll
  /-- IDLE, UPC 0x00: waits for a command (R350). -/
  | idle
  /-- CHECK, UPC 0x01 (R211). -/
  | check
  /-- S1.SELECT, UPC 0x10 (R213). -/
  | s1Select
  /-- S2.STAT, UPC 0x20 (R214). -/
  | s2Stat
  /-- S3.EOB, UPC 0x30 (R215). -/
  | s3Eob
  /-- S3.HGEN_LL, UPC 0x31 (R148). -/
  | s3HgenLl
  /-- S3.HGEN_D, UPC 0x32 (R148, R144). -/
  | s3HgenD
  /-- S3.CANON_LL, UPC 0x33 (R149). -/
  | s3CanonLl
  /-- S3.CANON_D, UPC 0x34 (R149). -/
  | s3CanonD
  /-- S4.TOKENIZE, UPC 0x40 (R182, R183). -/
  | s4Tokenize
  /-- S4.HGEN_CL, UPC 0x41 (R185). -/
  | s4HgenCl
  /-- S4.CANON_CL, UPC 0x42 (R185, R187). -/
  | s4CanonCl
  /-- S4.PREFIX, UPC 0x43 (R180). -/
  | s4Prefix
  /-- S4.BLKHDR, UPC 0x44 (R181). -/
  | s4Blkhdr
  /-- S4.COUNTS, UPC 0x45 (R186). -/
  | s4Counts
  /-- S4.CLLENS, UPC 0x46 (R187). -/
  | s4Cllens
  /-- S4.SEQ, UPC 0x47 (R188). -/
  | s4Seq
  /-- S4.FLUSH, UPC 0x48 (R189). -/
  | s4Flush
  /-- S5.ENCODE, UPC 0x50 (R220). -/
  | s5Encode
  /-- S6.INTERPRET, UPC 0x60 (R221). -/
  | s6Interpret
  /-- S6.EMIT_CARRY, UPC 0x61 (R223). -/
  | s6EmitCarry
  /-- S6.EMIT_ALL, UPC 0x62 (R224). -/
  | s6EmitAll
  /-- S6.STORED, UPC 0x63 (R225). -/
  | s6Stored
  /-- S6.FATAL, UPC 0x6F (R226). -/
  | s6Fatal
  /-- S7.UPDATE, UPC 0x70 (R227, R228). -/
  | s7Update
  /-- Z.STORED, UPC 0x80 (R212). -/
  | zStored
  /-- X.RESET, UPC 0x90 (R240). -/
  | xReset
  /-- X.CLOSE, UPC 0x91 (R241). -/
  | xClose
  /-- X.READALL, UPC 0x92 (R242). -/
  | xReadall
  /-- FAULT, UPC 0xF0 (R340). -/
  | faulted
  /-- HDR_DYNAMIC, the 3-bit header of a dynamic block (R98, R181). -/
  | hdrDynamic (bfinal : Bool)
  /-- HDR_STORED, the 3-bit header of a stored block (R98, R230). -/
  | hdrStored (bfinal : Bool)
  /-- CL_LEN, the code-length token of one code length (R101). -/
  | clLen (value : BitVec 4)
  /-- CL_REP16 with its 2 extra bits: repeat the previous length `3 + extra` times (R101). -/
  | clRep16 (extra : BitVec 2)
  /-- CL_REP17 with its 3 extra bits: `3 + extra` zero lengths (R101). -/
  | clRep17 (extra : BitVec 3)
  /-- CL_REP18 with its 7 extra bits: `11 + extra` zero lengths (R101). -/
  | clRep18 (extra : BitVec 7)
  /-- PACKED_ENTRY, `(len << 15) | code` (R96). -/
  | packedEntry (len : BitVec 4) (code : BitVec 15)
deriving DecidableEq, Repr

end Sys2Proof
end

