-- ==== Sys2Proof/WellFormed.lean ====
section
/-! DEFINITION. Which instructions are well formed. The widths of the operands are in their types, so one check remains:
a packed entry's code fits its length (spec/30_encoding.md rule R96, R100: "code < 2^len"). A WRITE_BLOCK of more than
32768 bytes is a legal word (R94: a size-limit error, not an illegal word). -/

namespace Sys2Proof

/-- The check of R96 on a packed entry: the code is below 2^len, so an unused symbol (len 0) has code 0. -/
def packedCodeFits (len : BitVec 4) (code : BitVec 15) : Bool := decide (code.toNat < 2 ^ len.toNat)

/-- The well-formed instructions. -/
def wellFormed : Instr → Bool
  | .packedEntry len code => packedCodeFits len code
  | .reset => true
  | .writeBlock _ _ => true
  | .close => true
  | .readAll => true
  | .idle => true
  | .check => true
  | .s1Select => true
  | .s2Stat => true
  | .s3Eob => true
  | .s3HgenLl => true
  | .s3HgenD => true
  | .s3CanonLl => true
  | .s3CanonD => true
  | .s4Tokenize => true
  | .s4HgenCl => true
  | .s4CanonCl => true
  | .s4Prefix => true
  | .s4Blkhdr => true
  | .s4Counts => true
  | .s4Cllens => true
  | .s4Seq => true
  | .s4Flush => true
  | .s5Encode => true
  | .s6Interpret => true
  | .s6EmitCarry => true
  | .s6EmitAll => true
  | .s6Stored => true
  | .s6Fatal => true
  | .s7Update => true
  | .zStored => true
  | .xReset => true
  | .xClose => true
  | .xReadall => true
  | .faulted => true
  | .hdrDynamic _ => true
  | .hdrStored _ => true
  | .clLen _ => true
  | .clRep16 _ => true
  | .clRep17 _ => true
  | .clRep18 _ => true

/-- `WellFormed i`: the instruction has an encoding that the spec admits. -/
abbrev WellFormed (i : Instr) : Prop := wellFormed i = true

end Sys2Proof
end

