-- ==== Sys2Proof/Decode.lean ====
section
/-! DEFINITION. The decoders of the five formats, total on any word, each rejecting by name; then the encoder, written from
the same tables (spec/30_encoding.md rules R91 to R104; spec/10_state.md rule R30). -/

namespace Sys2Proof

/-! ### The values of UPC (spec/10_state.md rule R30) -/

namespace Upc

abbrev idle : BitVec 8 := 0x00#8
abbrev check : BitVec 8 := 0x01#8
abbrev s1Select : BitVec 8 := 0x10#8
abbrev s2Stat : BitVec 8 := 0x20#8
abbrev s3Eob : BitVec 8 := 0x30#8
abbrev s3HgenLl : BitVec 8 := 0x31#8
abbrev s3HgenD : BitVec 8 := 0x32#8
abbrev s3CanonLl : BitVec 8 := 0x33#8
abbrev s3CanonD : BitVec 8 := 0x34#8
abbrev s4Tokenize : BitVec 8 := 0x40#8
abbrev s4HgenCl : BitVec 8 := 0x41#8
abbrev s4CanonCl : BitVec 8 := 0x42#8
abbrev s4Prefix : BitVec 8 := 0x43#8
abbrev s4Blkhdr : BitVec 8 := 0x44#8
abbrev s4Counts : BitVec 8 := 0x45#8
abbrev s4Cllens : BitVec 8 := 0x46#8
abbrev s4Seq : BitVec 8 := 0x47#8
abbrev s4Flush : BitVec 8 := 0x48#8
abbrev s5Encode : BitVec 8 := 0x50#8
abbrev s6Interpret : BitVec 8 := 0x60#8
abbrev s6EmitCarry : BitVec 8 := 0x61#8
abbrev s6EmitAll : BitVec 8 := 0x62#8
abbrev s6Stored : BitVec 8 := 0x63#8
abbrev s6Fatal : BitVec 8 := 0x6F#8
abbrev s7Update : BitVec 8 := 0x70#8
abbrev zStored : BitVec 8 := 0x80#8
abbrev xReset : BitVec 8 := 0x90#8
abbrev xClose : BitVec 8 := 0x91#8
abbrev xReadall : BitVec 8 := 0x92#8
abbrev faulted : BitVec 8 := 0xF0#8

end Upc

/-- The table of spec/10_state.md rule R30, row by row: a value of UPC and the micro-operation it names. -/
def upcTable : List (BitVec 8 × Instr) :=
  [ (Upc.idle, .idle), (Upc.check, .check), (Upc.s1Select, .s1Select), (Upc.s2Stat, .s2Stat),
    (Upc.s3Eob, .s3Eob), (Upc.s3HgenLl, .s3HgenLl), (Upc.s3HgenD, .s3HgenD),
    (Upc.s3CanonLl, .s3CanonLl), (Upc.s3CanonD, .s3CanonD),
    (Upc.s4Tokenize, .s4Tokenize), (Upc.s4HgenCl, .s4HgenCl), (Upc.s4CanonCl, .s4CanonCl),
    (Upc.s4Prefix, .s4Prefix), (Upc.s4Blkhdr, .s4Blkhdr), (Upc.s4Counts, .s4Counts),
    (Upc.s4Cllens, .s4Cllens), (Upc.s4Seq, .s4Seq), (Upc.s4Flush, .s4Flush),
    (Upc.s5Encode, .s5Encode), (Upc.s6Interpret, .s6Interpret), (Upc.s6EmitCarry, .s6EmitCarry),
    (Upc.s6EmitAll, .s6EmitAll), (Upc.s6Stored, .s6Stored), (Upc.s6Fatal, .s6Fatal),
    (Upc.s7Update, .s7Update), (Upc.zStored, .zStored),
    (Upc.xReset, .xReset), (Upc.xClose, .xClose), (Upc.xReadall, .xReadall), (Upc.faulted, .faulted) ]

/-- Why a word is no instruction. -/
inductive DecodeError where
  /-- OP 0x0 or 0x5 to 0xF (R92, R94): an illegal command word. -/
  | reservedOp
  /-- CMD[15:5] is not 0 (R94): an illegal command word. -/
  | reservedBits
  /-- FINAL or LEN is not 0 with an OP other than WRITE_BLOCK (R94): an illegal command word. -/
  | operandNotAllowed
  /-- A value of UPC that the table of R30 does not hold (R95). -/
  | reservedUpc
  /-- BTYPE 0b01 or 0b11, which the DFE never emits (R104). -/
  | reservedBtype
  /-- A code-length symbol above 18 (R101). -/
  | reservedSymbol
  /-- Extra bits that the code-length symbol does not have (R101). -/
  | extraBits
  /-- A packed entry with a bit above 18 set (R96). -/
  | packedHighBits
  /-- The word has a bit set above its format's width. -/
  | tooWide
deriving DecidableEq, Repr

/-! ### Format S: the fields of the command word (spec/30_encoding.md rule R91) -/

/-- `CMD[3:0]`. -/
def cmdOp (w : Word) : BitVec 4 := w.extractLsb' 0 4

/-- `CMD[4]`. -/
def cmdFinal (w : Word) : Bool := w.getLsbD 4

/-- `CMD[15:5]`. -/
def cmdZero (w : Word) : BitVec 11 := w.extractLsb' 5 11

/-- `CMD[31:16]`. -/
def cmdLen (w : Word) : BitVec 16 := w.extractLsb' 16 16

/-- A command without operands: FINAL and LEN must be 0 (R91, R94). -/
def plainCommand (w : Word) (i : Instr) : Except DecodeError Instr :=
  if cmdFinal w = false ∧ cmdLen w = 0#16 then .ok i else .error .operandNotAllowed

/-- The command decoder (R91, R92, R94, R111): every 32-bit word is one of the four commands or illegal. -/
def decodeCommand (w : Word) : Except DecodeError Instr :=
  if cmdZero w ≠ 0#11 then .error .reservedBits
  else if cmdOp w = 1#4 then plainCommand w .reset
  else if cmdOp w = 2#4 then .ok (.writeBlock (cmdFinal w) (cmdLen w))
  else if cmdOp w = 3#4 then plainCommand w .close
  else if cmdOp w = 4#4 then plainCommand w .readAll
  else .error .reservedOp

/-! ### The other formats -/

/-- The micro-operation that a value of UPC names (spec/10_state.md rule R30). -/
def decodeUpc (u : BitVec 8) : Except DecodeError Instr :=
  match upcTable.lookup u with
  | some i => .ok i
  | none => .error .reservedUpc

/-- The 3-bit block header `BFINAL | (BTYPE << 1)` (spec/30_encoding.md rule R98). -/
def decodeBlkhdr (w : BitVec 3) : Except DecodeError Instr :=
  if w.extractLsb' 1 2 = 2#2 then .ok (.hdrDynamic (w.getLsbD 0))
  else if w.extractLsb' 1 2 = 0#2 then .ok (.hdrStored (w.getLsbD 0))
  else .error .reservedBtype

/-- A code-length token (spec/30_encoding.md rule R101): the symbol in bits 4:0 and its extra bits directly above, as they
follow the symbol in the stream.
DESIGN CHOICE (log 14): the table gives the symbol's 5 bits only; unsafe. -/
def decodeClsym (w : BitVec 12) : Except DecodeError Instr :=
  if w.extractLsb' 4 1 = 0#1 then
    if w.extractLsb' 5 7 = 0#7 then .ok (.clLen (w.extractLsb' 0 4)) else .error .extraBits
  else if w.extractLsb' 0 5 = 16#5 then
    if w.extractLsb' 7 5 = 0#5 then .ok (.clRep16 (w.extractLsb' 5 2)) else .error .extraBits
  else if w.extractLsb' 0 5 = 17#5 then
    if w.extractLsb' 8 4 = 0#4 then .ok (.clRep17 (w.extractLsb' 5 3)) else .error .extraBits
  else if w.extractLsb' 0 5 = 18#5 then .ok (.clRep18 (w.extractLsb' 5 7))
  else .error .reservedSymbol

/-- A packed entry (spec/30_encoding.md rule R96): bits 14:0 the code, 18:15 the length, 31:19 zero.
DESIGN CHOICE (log 42): that the code is below 2^len is not tested here, `wellFormed` says it; unsafe. -/
def decodePacked (w : Word) : Except DecodeError Instr :=
  if w.extractLsb' 19 13 = 0#13 then .ok (.packedEntry (w.extractLsb' 15 4) (w.extractLsb' 0 15))
  else .error .packedHighBits

/-- The decoder of a word of a given format; bits above the format's width must be 0. -/
def decode (f : Format) (w : Word) : Except DecodeError Instr :=
  match f with
  | .s => decodeCommand w
  | .upc => if w.extractLsb' 8 24 = 0#24 then decodeUpc (w.extractLsb' 0 8) else .error .tooWide
  | .blkhdr3 => if w.extractLsb' 3 29 = 0#29 then decodeBlkhdr (w.extractLsb' 0 3) else .error .tooWide
  | .clsym => if w.extractLsb' 12 20 = 0#20 then decodeClsym (w.extractLsb' 0 12) else .error .tooWide
  | .packed32 => decodePacked w

/-! ### The encoder -/

/-- An encoded instruction: its format and its bits, bit 0 the least significant. -/
structure Encoded where
  fmt : Format
  bits : Word
deriving DecidableEq, Repr

/-- The word of a command (spec/30_encoding.md rules R91, R92, R106): `OP | (FINAL << 4) | (len << 16)`. -/
def commandWord (op : BitVec 4) (final : Bool) (len : BitVec 16) : Word :=
  op.setWidth 32 ||| ((BitVec.ofBool final).setWidth 32 <<< 4) ||| (len.setWidth 32 <<< 16)

/-- A micro-operation's word: its value of UPC (spec/10_state.md rule R30). -/
def upcWord (u : BitVec 8) : Encoded := ⟨.upc, u.setWidth 32⟩

/-- A block header's word: `BFINAL | (BTYPE << 1)` (spec/30_encoding.md rule R98). -/
def blkhdrBits (btype : BitVec 2) (bfinal : Bool) : BitVec 3 :=
  (BitVec.ofBool bfinal).setWidth 3 ||| (btype.setWidth 3 <<< 1)

/-- A token's word: the symbol and its extra bits above it (log 14). -/
def clsymBits (sym : BitVec 5) (extra : BitVec 7) : BitVec 12 :=
  sym.setWidth 12 ||| (extra.setWidth 12 <<< 5)

/-- The packed entry `(len << 15) | code` in a 32-bit container (spec/30_encoding.md rule R96). -/
def packedBits (len : BitVec 4) (code : BitVec 15) : Word :=
  (len.setWidth 32 <<< 15) ||| code.setWidth 32

/-- The encoder: the word of an instruction, from the tables of R91, R92, R30, R98, R101, R96. -/
def encode : Instr → Encoded
  | .reset => ⟨.s, commandWord 1#4 false 0#16⟩
  | .writeBlock final len => ⟨.s, commandWord 2#4 final len⟩
  | .close => ⟨.s, commandWord 3#4 false 0#16⟩
  | .readAll => ⟨.s, commandWord 4#4 false 0#16⟩
  | .idle => upcWord Upc.idle
  | .check => upcWord Upc.check
  | .s1Select => upcWord Upc.s1Select
  | .s2Stat => upcWord Upc.s2Stat
  | .s3Eob => upcWord Upc.s3Eob
  | .s3HgenLl => upcWord Upc.s3HgenLl
  | .s3HgenD => upcWord Upc.s3HgenD
  | .s3CanonLl => upcWord Upc.s3CanonLl
  | .s3CanonD => upcWord Upc.s3CanonD
  | .s4Tokenize => upcWord Upc.s4Tokenize
  | .s4HgenCl => upcWord Upc.s4HgenCl
  | .s4CanonCl => upcWord Upc.s4CanonCl
  | .s4Prefix => upcWord Upc.s4Prefix
  | .s4Blkhdr => upcWord Upc.s4Blkhdr
  | .s4Counts => upcWord Upc.s4Counts
  | .s4Cllens => upcWord Upc.s4Cllens
  | .s4Seq => upcWord Upc.s4Seq
  | .s4Flush => upcWord Upc.s4Flush
  | .s5Encode => upcWord Upc.s5Encode
  | .s6Interpret => upcWord Upc.s6Interpret
  | .s6EmitCarry => upcWord Upc.s6EmitCarry
  | .s6EmitAll => upcWord Upc.s6EmitAll
  | .s6Stored => upcWord Upc.s6Stored
  | .s6Fatal => upcWord Upc.s6Fatal
  | .s7Update => upcWord Upc.s7Update
  | .zStored => upcWord Upc.zStored
  | .xReset => upcWord Upc.xReset
  | .xClose => upcWord Upc.xClose
  | .xReadall => upcWord Upc.xReadall
  | .faulted => upcWord Upc.faulted
  | .hdrDynamic bfinal => ⟨.blkhdr3, (blkhdrBits 2#2 bfinal).setWidth 32⟩
  | .hdrStored bfinal => ⟨.blkhdr3, (blkhdrBits 0#2 bfinal).setWidth 32⟩
  | .clLen value => ⟨.clsym, (clsymBits (value.setWidth 5) 0#7).setWidth 32⟩
  | .clRep16 extra => ⟨.clsym, (clsymBits 16#5 (extra.setWidth 7)).setWidth 32⟩
  | .clRep17 extra => ⟨.clsym, (clsymBits 17#5 (extra.setWidth 7)).setWidth 32⟩
  | .clRep18 extra => ⟨.clsym, (clsymBits 18#5 extra).setWidth 32⟩
  | .packedEntry len code => ⟨.packed32, packedBits len code⟩

/-- The pseudo-command FLUSH_FINAL: `WRITE_BLOCK 0, FINAL` (spec/30_encoding.md rule R107). -/
def flushFinal : Instr := .writeBlock true 0#16

/-- The pseudo-command WRITE_LAST: `WRITE_BLOCK len, FINAL` (spec/30_encoding.md rule R107). -/
def writeLast (len : BitVec 16) : Instr := .writeBlock true len

/-! ### The opcode table's rows -/

/-- The decoder's answer where it accepts. -/
def accepted (r : Except DecodeError Instr) : Option Instr :=
  match r with
  | .ok i => some i
  | .error _ => none

/-- The format and the word that a table row of `nbits` bits stands for. The five formats are separate spaces of words and the
table gives two of them 32 bits and three of them one byte, so the width alone does not name the format.
DESIGN CHOICE (log 13): a 32-bit word is a command where it is a legal one and a packed entry otherwise; a byte is a value of
UPC where the table of R30 holds it, else a block header where it fits 3 bits with a BTYPE that the DFE emits, else a
code-length symbol where it fits 5 bits; 3 bits are a block header; every other width is a code-length token with its extra
bits; unsafe. -/
def tableFormat (nbits w : Nat) : Format :=
  if nbits = 32 then (if (accepted (decodeCommand (BitVec.ofNat 32 w))).isSome then .s else .packed32)
  else if nbits = 8 then
    if (accepted (decodeUpc (BitVec.ofNat 8 w))).isSome then .upc
    else if w < 8 ∧ (accepted (decodeBlkhdr (BitVec.ofNat 3 w))).isSome then .blkhdr3
    else .clsym
  else if nbits = 3 then .blkhdr3
  else .clsym

/-- The instruction that the decoder reads from a table row's word (the host's question, for each row one word). A byte that
is no value of UPC has no bits for a token's extra bits, so it is a bare symbol. -/
def decodeTableWord (nbits w : Nat) : Option Instr :=
  if w < 2 ^ nbits ∧ (nbits = 8 → tableFormat nbits w = .clsym → w < 32) then
    accepted (decode (tableFormat nbits w) (BitVec.ofNat 32 w))
  else none

end Sys2Proof
end

