-- ==== Sys2Proof/Machine/Work.lean ====
section
/-! DEFINITION. The sequencer's working arrays and working registers (spec/10_state.md rule R32), as plain data. -/

namespace Sys2Proof.Machine

/-- One token of TOK (R32): the code-length symbol, its extra value and the number of extra bits. -/
structure Token where
  sym : BitVec 5
  extra : BitVec 7
  ebits : BitVec 3
deriving DecidableEq, Repr, Inhabited

/-- The way a block reaches the sink (R18, R32: PATH). -/
inductive Path where
  | compressed
  | stored
deriving DecidableEq, Repr, Inhabited

/-- The working arrays and working registers of R32. An array is the list of its elements from index 0; an element that the
list does not reach reads 0 (log 29), so every array has its full length for every rule that reads it. -/
structure Work where
  /-- LLLEN[0..285], u4. -/
  llLen : List (BitVec 4)
  /-- DLEN[0..29], u4. -/
  dLen : List (BitVec 4)
  /-- CLFREQ[0..18], u9. -/
  clFreq : List (BitVec 9)
  /-- CLLEN[0..18], u3. -/
  clLen : List (BitVec 3)
  /-- CLREV[0..18], u7. -/
  clRev : List (BitVec 7)
  /-- COUNTL[0..15], u9. -/
  countl : List (BitVec 9)
  /-- NEXT[0..15], u16. -/
  next : List (BitVec 16)
  /-- TOK[0..T-1]. -/
  tok : List Token
  /-- NLIT, u9. -/
  nlit : BitVec 9
  /-- NDIST, u5. -/
  ndist : BitVec 5
  /-- NCLEN, u5. -/
  nclen : BitVec 5
  /-- BF, the final flag of the block in hand (R41). -/
  bf : Bool
  /-- N, u16, the length of the block in hand. -/
  n : BitVec 16
  /-- PATH. -/
  path : Path
deriving DecidableEq, Repr, Inhabited

/-- The working arrays at hardware reset: all zero or empty (R43 "unspecified").
DESIGN CHOICE (log 1), unsafe. -/
def Work.zero : Work :=
  { llLen := [], dLen := [], clFreq := [], clLen := [], clRev := [], countl := [], next := [], tok := [],
    nlit := 0, ndist := 0, nclen := 0, bf := false, n := 0, path := .compressed }

end Sys2Proof.Machine
end

