-- ==== Sys2Proof/Config.lean ====
section
/-! DEFINITION. What an implementation fixes and the spec leaves open (spec/00_scope.md rule R10): constants without a body, so
that no proof can see their values. The machine reads them from the field `par` of State, which no step writes; State.reset
takes the constants below (log 8), a state of a claim may hold any values. -/

namespace Sys2Proof

/-- One answer of HUFFLEN where the contract admits several (spec/40_huffman_generator.md rule R138): for this frequency array
and this cap, these lengths. It is used only where it meets the contract (log 9). -/
structure HuffChoice where
  freq : List Nat
  cap : Nat
  lens : List Nat
deriving DecidableEq, Repr

/-- The implementation parameters of R10 that a rule of the DFE reads. -/
structure Params where
  /-- OUT_CAP, the capacity of OUT in bytes (spec/20_memory.md rule R69). -/
  outCap : Nat
  /-- The completion status that means success (spec/43_accelerator_interface.md rule R267). -/
  success : BitVec 8
  /-- OVERFLOW_SET, (status, error) pairs (R267); a pair whose status is `success` counts for nothing. -/
  overflowSet : List (BitVec 8 × BitVec 8)
  /-- SCRATCH_INIT, the reset content of an AECS's scratch fields (spec/42_block_compressor.md rule R213). -/
  scratchInit : List Byte
  /-- The instance of HUFFLEN (R138), as its answers where they differ from the reference instance's. -/
  huffChoices : List HuffChoice
deriving DecidableEq, Repr

/-- OUT_CAP of this implementation; OPEN (D19). -/
opaque Config.outCap : Nat

/-- The number of the success status; OPEN (D21). -/
opaque Config.success : BitVec 8

/-- OVERFLOW_SET of this implementation; OPEN (D21). -/
opaque Config.overflowSet : List (BitVec 8 × BitVec 8)

/-- SCRATCH_INIT of this implementation; OPEN (D23). -/
opaque Config.scratchInit : List Byte

/-- This implementation's instance of HUFFLEN; OPEN (D7). -/
opaque Config.huffChoices : List HuffChoice

/-- The parameters of this implementation. -/
def Config.params : Params :=
  { outCap := Config.outCap, success := Config.success, overflowSet := Config.overflowSet,
    scratchInit := Config.scratchInit, huffChoices := Config.huffChoices }

/-- The content of the working arrays after the k-th RESET command, "unspecified" by spec/10_state.md rule R43: a free value
(log 32). -/
opaque Config.freeWork : Nat → Machine.Work

/-! The numbers that the document fixes (spec/00_scope.md rule R9). -/

/-- N_LL, the literal/length counters. -/
abbrev nLL : Nat := 286

/-- N_D, the distance counters. -/
abbrev nD : Nat := 30

/-- N_CL, the code-length symbols. -/
abbrev nCL : Nat := 19

/-- L_MAX, the length cap of the literal/length and distance codes. -/
abbrev lMax : Nat := 15

/-- L_CL, the length cap of the code-length code (R10, GK3). -/
abbrev lCL : Nat := 7

/-- BLOCK_MAX, bytes; also the size of IN (spec/10_state.md rule R37). -/
abbrev blockMax : Nat := 32768

/-- HDR_CAP_BITS. -/
abbrev hdrCapBits : Nat := 2048

/-- HDR_REGION_BYTES (R10, D12). -/
abbrev hdrRegionBytes : Nat := 256

/-- GROUP_BITS. -/
abbrev groupBits : Nat := 48

/-- STORED_SLACK, bytes. -/
abbrev storedSlack : Nat := 5

/-- SCAN, the order of the code-length code lengths in a header. -/
def scan : List Nat := [16, 17, 18, 0, 8, 7, 9, 6, 10, 5, 11, 4, 12, 3, 13, 2, 14, 1, 15]

end Sys2Proof
end

