-- ==== Sys2Proof/Machine/State.lean ====
section
/-! DEFINITION. The state of the DFE as plain data (spec/10_state.md rules R20 to R43), the reasons a step can stop, and the
machine right after hardware reset. -/

namespace Sys2Proof.Machine

/-! ### Memories -/

/-- One space or one region (spec/10_state.md rule R37): bytes indexed from 0, as a list of (address, byte) pairs in the
canonical form of `Memory.wf` (Machine/Memory.lean): addresses strictly rising, no entry equal to what an unlisted address
reads as. -/
structure Memory where
  cells : List Host.Cell
deriving DecidableEq, Repr

/-- Memory with nothing listed. -/
def Memory.empty : Memory := ⟨[]⟩

/-- One AECS instance (spec/10_state.md rule R38): the five regions the DFE names, and the rest of the opaque instance, which
the accelerator owns (R40 a).
DESIGN CHOICE (log 40): AECS_SIZE, AECS_ALIGN and AECS_LAYOUT are open (R10), and no rule reads them: SCRATCH and the rest are lists
of any length, no instance has an address; safe. -/
structure Aecs where
  /-- SCRATCH, size not in the source; its content is opaque. -/
  scratch : List Byte
  /-- HIST_LL[0..285], 32-bit little-endian entries. -/
  histLL : Memory
  /-- HIST_D[0..29], 32-bit little-endian entries. -/
  histD : Memory
  /-- HDR[0..255]. -/
  hdr : Memory
  /-- HDRBITS, "at least 12 bits" (R38). DESIGN CHOICE (log 44): exactly 12; unsafe. -/
  hdrBits : BitVec 12
  /-- Every other byte of the instance. -/
  rest : List Byte
deriving DecidableEq, Repr

/-- An AECS instance at hardware reset: content unspecified (R43).
DESIGN CHOICE (log 2): nothing listed; unsafe. -/
def Aecs.zero : Aecs :=
  { scratch := [], histLL := Memory.empty, histD := Memory.empty, hdr := Memory.empty, hdrBits := 0, rest := [] }

/-! ### The accelerator's side -/

/-- The Completion Record (spec/10_state.md rule R39, spec/43_accelerator_interface.md rule R266). -/
structure CompletionRecord where
  status : BitVec 8
  error : BitVec 8
  consumed : BitVec 32
  produced : BitVec 32
  bitrem : BitVec 3
  crc : BitVec 32
deriving DecidableEq, Repr

/-- The completion record at hardware reset: content unspecified (R43).
DESIGN CHOICE (log 4), unsafe. -/
def CompletionRecord.zero : CompletionRecord :=
  { status := 0, error := 0, consumed := 0, produced := 0, bitrem := 0, crc := 0 }

/-- The two kinds of job (spec/43_accelerator_interface.md rule R263). -/
inductive JobKind where
  | stat
  | encode
deriving DecidableEq, Repr

/-- The output buffer that a job descriptor names (spec/43_accelerator_interface.md rule R263): the space OUT, the only one the
DFE has (spec/42_block_compressor.md rule R220, `out: OUT`). -/
inductive OutBuffer where
  | out
deriving DecidableEq, Repr

/-- The job descriptor's fields (spec/43_accelerator_interface.md rule R263). `out`, `outCap`, `crcSeed` and `final` are an encode
job's; a statistics job has no output buffer (R264) and the others 0. -/
structure Job where
  kind : JobKind
  /-- `in`: the bytes IN[0..N-1]. -/
  input : List Byte
  /-- `aecs`: which of the two instances. -/
  aecs : Bool
  /-- `out`: the output buffer. -/
  out : Option OutBuffer
  outCap : Nat
  crcSeed : BitVec 32
  final : Bool
deriving DecidableEq, Repr

/-- What came of one job, between the call of Submit and its return (spec/43_accelerator_interface.md rules R262 to R265): the
primitive's own return status, the completion record, what the accelerator wrote into the job's AECS instance and, for an encode
job, the bytes it wrote to OUT. `none` means that the region was left as it was; a list is written from offset 0. -/
structure JobAnswer where
  /-- The submission primitive's own return status where it is not success (R262: submission refused, queue error). -/
  submitStatus : Option (BitVec 8)
  cr : CompletionRecord
  out : List Byte
  histLL : Option (List (BitVec 32))
  histD : Option (List (BitVec 32))
  hdr : Option (List Byte)
  hdrBits : Option (BitVec 12)
  scratch : Option (List Byte)
  rest : Option (List Byte)
deriving DecidableEq, Repr

/-- The completion record that the DFE finds (spec/43_accelerator_interface.md rule R262): where the submission itself failed, its
status with error 0; every other field is unspecified, so the answer's. -/
def JobAnswer.record (r : JobAnswer) : CompletionRecord :=
  match r.submitStatus with
  | none => r.cr
  | some st => { r.cr with status := st, error := 0 }

/-- The answer of the sink to one append (spec/60_exceptions.md rule R336): the bytes were taken, or it failed after taking
`taken` of them. -/
inductive SinkAnswer where
  | accept
  | fail (taken : Nat)
deriving DecidableEq, Repr

/-- How a source stands after the bytes it has delivered (spec/30_encoding.md rule R93): it has reported nothing more yet, it
has reported its end, or it has reported an error. -/
inductive SrcStatus where
  | pending
  | ended
  | failed
deriving DecidableEq, Repr

/-- The SRC port (spec/10_state.md rule R37): the bytes not yet read and what the source reports after them. -/
structure Source where
  bytes : List Byte
  status : SrcStatus
deriving DecidableEq, Repr

/-! ### The host's side -/

/-- One action of the host (spec/00_scope.md rule R15, spec/70_reset_and_hazards.md rule R374). -/
inductive HostAction where
  /-- A 32-bit write to an offset of the CSR space (R35, R36); at offset 0 it is a command word (R91). -/
  | csrWrite (off : Nat) (w : Word)
  /-- The host writes a Block into IN from offset 0 (R68). -/
  | loadIn (bytes : List Byte)
  /-- The host attaches a source to the SRC port (R93). -/
  | attachSource (src : Source)
  /-- Hardware reset, with the answer of `ready()` (R370, R268). -/
  | hardwareReset (ready : Bool)
deriving DecidableEq, Repr

/-- A wire item handed to the emitter by itself (log 14): its format and its bits. -/
structure WireWord where
  fmt : Format
  bits : Word
deriving DecidableEq, Repr

/-! ### State -/

/-- The whole state of one stream (spec/10_state.md rule R20), and the model's own inputs and counters. -/
structure State where
  /-- ACC (R21). -/
  acc : BitVec 64
  /-- NB (R22). -/
  nb : BitVec 7
  /-- TOTAL (R23). -/
  total : BitVec 12
  /-- OUTP (R23). -/
  outp : BitVec 9
  /-- CB (R24). -/
  cb : BitVec 7
  /-- CBN (R24). -/
  cbn : BitVec 3
  /-- HB (R25). -/
  hb : BitVec 12
  /-- CRC (R26). -/
  crc : BitVec 32
  /-- TGL (R27). -/
  tgl : Bool
  /-- ERR (R28). -/
  err : Bool
  /-- FIN (R28). -/
  fin : Bool
  /-- FAULT (R28). -/
  fault : Bool
  /-- CLOSED (R28). -/
  closed : Bool
  /-- NODEV (R28). -/
  nodev : Bool
  /-- BOUND (R28). -/
  bound : Bool
  /-- CONV (R28, R33). -/
  conv : Bool
  /-- UPC (R30). -/
  upc : BitVec 8
  /-- ECLASS (R34). -/
  eclass : BitVec 4
  /-- HWSTATUS (R34). -/
  hwstatus : BitVec 8
  /-- HWERR (R34). -/
  hwerr : BitVec 8
  /-- COUNT (R34). -/
  count : BitVec 64
  /-- MAXXFER (R35, R261). -/
  maxxfer : BitVec 32
  /-- The command word of the running command (R91, R211: `CMD[4]`, `CMD[31:16]`). -/
  cmd : Word
  /-- `total` of READ_ALL (R242). -/
  rtotal : BitVec 64
  /-- The working arrays and registers (R32). -/
  work : Work
  /-- IN (R37, R68). -/
  inMem : Memory
  /-- AECS[0] (R38). -/
  aecs0 : Aecs
  /-- AECS[1] (R38). -/
  aecs1 : Aecs
  /-- OUT (R37, R69). -/
  out : Memory
  /-- CR (R39). -/
  cr : CompletionRecord
  /-- The model's own: the last Submit returned a status of its own that is not success (R262; log 38). -/
  submitFailed : Bool
  /-- SINK, the bytes of the bound sink (R37, R66). -/
  sink : List Byte
  /-- The sinks bound before it, newest first, which keep their bytes (R66). -/
  released : List (List Byte)
  /-- SRC (R37, R93). -/
  src : Source
  /-- The job descriptor of the last job submitted (R263). -/
  desc : Option Job
  /-- The model's own: the implementation parameters (log 8). -/
  par : Params
  /-- The model's own: the host's actions still to come (log 10). -/
  script : List HostAction
  /-- The model's own: the answers of maxTransferSize() still to come (log 6). -/
  xferQ : List Nat
  /-- The model's own: what the accelerator does with the jobs still to come (log 6). -/
  jobQ : List JobAnswer
  /-- The model's own: the sink's answers still to come, accepting when empty (log 21). -/
  sinkQ : List SinkAnswer
  /-- The model's own: a wire item to be emitted by itself (log 14). -/
  wire : Option WireWord
  /-- The model's own: the symbol index of CANON (R141; log 15), 0..285 in HIST_LL, 286..315 in HIST_D. -/
  ci : BitVec 9
  /-- The model's own: how many free values have been drawn (log 32). -/
  freeCtr : Nat
deriving DecidableEq, Repr

/-! ### Why a step stops -/

/-- The reasons of a fault of the model. The DFE's own invariant failures are no stop of the model: they are the fault state
of spec/60_exceptions.md rule R340, a next state. -/
inductive Fault where
  /-- Raised by the fetch alone: UPC holds a value that is not in the table ("Every value not in the table is never taken",
  spec/10_state.md rule R30). Safe: no step leads to such a value (log 27). -/
  | upcNeverTaken
deriving DecidableEq, Repr

/-- The reasons of a refusal of the model. -/
inductive Refusal where
  /-- Raised by exec's arm of an instruction that has no meaning yet; no arm is left in this state. Safe. -/
  | notModelled (mnemonic : String)
  /-- Raised by the fetch alone: the word handed to the emitter is no wire item that the DFE produces (spec/30_encoding.md
  rules R104, R112). Safe: no step of the DFE hands over a word (log 14). -/
  | wireReserved
deriving DecidableEq, Repr

/-! ### Reset -/

/-- The state after hardware reset, the middle column of spec/10_state.md rule R43, for an answer of `ready()`
(spec/43_accelerator_interface.md rule R268: NODEV <- not ready()). The registers R43 calls unspecified are at the values of
logs 1 to 4.
DESIGN CHOICE (log 15): the model's own symbol index `ci` is 0; unsafe. -/
def State.hwReset (ready : Bool) : State :=
  { acc := 0, nb := 0, total := 0, outp := 0, cb := 0, cbn := 0, hb := 0, crc := 0, tgl := false,
    err := false, fin := false, fault := false, closed := false, nodev := !ready, bound := false, conv := false,
    upc := Upc.idle, eclass := 0, hwstatus := 0, hwerr := 0, count := 0, maxxfer := 0, cmd := 0, rtotal := 0,
    work := Work.zero, inMem := Memory.empty, aecs0 := Aecs.zero, aecs1 := Aecs.zero, out := Memory.empty,
    cr := CompletionRecord.zero, submitFailed := false, sink := [], released := [], src := ⟨[], .pending⟩, desc := none,
    par := Config.params, script := [], xferQ := [], jobQ := [], sinkQ := [], wire := none, ci := 0, freeCtr := 0 }

/-- The machine right after reset: hardware reset with `ready()` true (spec/10_state.md rule R35: "reset" is the value after
hardware reset with `ready()` true).
DESIGN CHOICE (log 5): a device is present; unsafe. -/
def State.reset : State := State.hwReset true

end Sys2Proof.Machine
end

