-- ==== Sys2Proof/Machine/Memory.lean ====
section
/-! DEFINITION. The operations over one space (spec/20_memory.md rules R60, R62): reading and writing bytes, little-endian
numbers and tables of 32-bit entries, each write keeping the canonical form. -/

namespace Sys2Proof.Machine

/-- What a byte that nothing has written reads as.
DESIGN CHOICE (log 2): 0x00; the spec leaves the content after hardware reset unspecified (spec/10_state.md rule R43);
unsafe. -/
def unlistedByte : Byte := 0#8

/-- The byte an address holds in a list of cells in canonical form. -/
def cellsRead : List Host.Cell → Nat → Byte
  | [], _ => unlistedByte
  | (k, c) :: t, a => if a = k then c else cellsRead t a

/-- A list of cells in canonical form with the byte at an address replaced; a byte that an unlisted address reads as leaves no
entry. -/
def cellsWrite : List Host.Cell → Nat → Byte → List Host.Cell
  | [], a, b => if b = unlistedByte then [] else [(a, b)]
  | (k, c) :: t, a, b =>
    if a < k then (if b = unlistedByte then (k, c) :: t else (a, b) :: (k, c) :: t)
    else if a = k then (if b = unlistedByte then t else (a, b) :: t)
    else (k, c) :: cellsWrite t a b

/-- The canonical form: addresses strictly rising from `lo` on, no entry equal to what an unlisted address reads as. -/
def cellsWf : Nat → List Host.Cell → Bool
  | _, [] => true
  | lo, (k, c) :: t => decide (lo ≤ k) && decide (c ≠ unlistedByte) && cellsWf (k + 1) t

/-- `Memory.wf m`: the memory is in canonical form, so that equal memories are equal data. -/
def Memory.wf (m : Memory) : Bool := cellsWf 0 m.cells

/-- The byte at an address. -/
def Memory.read (m : Memory) (a : Nat) : Byte := cellsRead m.cells a

/-- The memory with one byte written. -/
def Memory.write (m : Memory) (a : Nat) (b : Byte) : Memory := ⟨cellsWrite m.cells a b⟩

/-- The n bytes from an address on. -/
def Memory.readBytes (m : Memory) (a : Nat) : Nat → List Byte
  | 0 => []
  | n + 1 => m.read a :: m.readBytes (a + 1) n

/-- The memory with bytes written from an address on. -/
def Memory.writeBytes (m : Memory) (a : Nat) : List Byte → Memory
  | [] => m
  | b :: bs => (m.write a b).writeBytes (a + 1) bs

/-- `bytes_le(v, k)`: the k low bytes of v, least significant first (spec/42_block_compressor.md rule R230). -/
def bytesLe (v : Nat) : Nat → List Byte
  | 0 => []
  | k + 1 => BitVec.ofNat 8 v :: bytesLe (v / 256) k

/-- The number that bytes stand for, least significant first (spec/20_memory.md rule R60). -/
def ofBytesLe : List Byte → Nat
  | [] => 0
  | b :: bs => b.toNat + 256 * ofBytesLe bs

/-- Whether every one of n bytes at an address lies inside a space of a given size (spec/20_memory.md rule R60). -/
def inRegion (size a n : Nat) : Bool := decide (n = 0 ∨ a + n ≤ size)

/-- `MemRead` (spec/20_memory.md rule R60): the n bytes at an address as a little-endian number; none is `fault OutOfRegion`. -/
def memRead (size : Nat) (m : Memory) (a n : Nat) : Option Nat :=
  if inRegion size a n then some (ofBytesLe (m.readBytes a n)) else none

/-- `MemRead` as the bytes themselves; none is `fault OutOfRegion`. -/
def memReadBytes (size : Nat) (m : Memory) (a n : Nat) : Option (List Byte) :=
  if inRegion size a n then some (m.readBytes a n) else none

/-- `MemWrite` (spec/20_memory.md rule R60): the low 8n bits of v stored little-endian; none is `fault OutOfRegion`. -/
def memWrite (size : Nat) (m : Memory) (a n v : Nat) : Option Memory :=
  if inRegion size a n then some (m.writeBytes a (bytesLe v n)) else none

/-! ### Tables of 32-bit entries (spec/10_state.md rule R38, spec/20_memory.md rule R62) -/

/-- Entry i of a table. -/
def Memory.entry (m : Memory) (i : Nat) : BitVec 32 := BitVec.ofNat 32 (ofBytesLe (m.readBytes (4 * i) 4))

/-- The table with entry i written. -/
def Memory.setEntry (m : Memory) (i : Nat) (v : BitVec 32) : Memory := m.writeBytes (4 * i) (bytesLe v.toNat 4)

/-- The first n entries of a table. -/
def Memory.entries (m : Memory) (n : Nat) : List (BitVec 32) := (List.range n).map m.entry

/-- The table with its entries from index i on written, in order. -/
def Memory.setEntries (m : Memory) (i : Nat) : List (BitVec 32) → Memory
  | [] => m
  | v :: vs => (m.setEntry i v).setEntries (i + 1) vs

/-! ### Arrays -/

/-- The first n elements of an array given as a list; an element that the list does not reach is 0 (log 29). -/
def padded {w : Nat} (n : Nat) (l : List (BitVec w)) : List (BitVec w) := (List.range n).map fun i => l.getD i 0

end Sys2Proof.Machine
end

