-- ==== Sys2Proof/Machine/Operands.lean ====
section
/-! DEFINITION. How operands are formed (spec/30_encoding.md rules R91, R96 to R102, R100) and the byte strings the DFE builds:
bit reversal, the packed entry, the fields of a header, the stored block, the running checksum. -/

namespace Sys2Proof.Machine

/-- `rev(v, n)`: the n-bit value whose bit k is bit n-1-k of v (spec/00_scope.md rule R13). -/
def rev (v : Nat) : Nat → Nat
  | 0 => 0
  | n + 1 => (v % 2) * 2 ^ n + rev (v / 2) n

/-- The packed entry `(len << 15) | code` (spec/30_encoding.md rule R96). -/
def packedEntry (len code : Nat) : BitVec 32 := BitVec.ofNat 32 ((len <<< 15) ||| code)

/-- The smallest k with 8k >= a (spec/00_scope.md rule R14). -/
def ceilDiv8 (a : Nat) : Nat := (a + 7) >>> 3

/-! ### Fields written through the accumulator -/

/-- One call of BW.WRITE: the value and the number of bits (spec/41_header_bit_encoder.md rule R172). -/
structure Field where
  bits : BitVec 16
  n : Nat
deriving DecidableEq, Repr

/-- A field from a number. -/
def field (v n : Nat) : Field := ⟨BitVec.ofNat 16 v, n⟩

/-- The carried bits as a field (spec/41_header_bit_encoder.md rule R180). -/
def prefixFields (cb : BitVec 7) (cbn : BitVec 3) : List Field := [field cb.toNat cbn.toNat]

/-- The header of a dynamic block, `BFINAL | (0b10 << 1)` in 3 bits (spec/41_header_bit_encoder.md rule R181). -/
def blkhdrFields (bfinal : Bool) : List Field := [field (bitNat bfinal ||| (2 <<< 1)) 3]

/-- HLIT, HDIST and HCLEN (spec/41_header_bit_encoder.md rule R186, spec/30_encoding.md rule R100). Below its floor, where R182 and
R187 never leave it, a count's difference is 0 (DESIGN CHOICE, log 47; unsafe). -/
def countFields (nlit ndist nclen : Nat) : List Field :=
  [field (nlit - 257) 5, field (ndist - 1) 5, field (nclen - 4) 4]

/-- The code-length code lengths in scan order (spec/41_header_bit_encoder.md rule R187). -/
def cllenFields (clLen : List (BitVec 3)) (nclen : Nat) : List Field :=
  (scan.take nclen).map fun s => field (clLen.getD s 0).toNat 3

/-- The code of a code-length symbol, in its bit-reversed form (spec/41_header_bit_encoder.md rule R188); a symbol without a code
has a field of 0 bits (log 41). -/
def symbolField (clRev : List (BitVec 7)) (clLen : List (BitVec 3)) (sym : Nat) : Field :=
  field (clRev.getD sym 0).toNat (clLen.getD sym 0).toNat

/-- A token: its symbol's code, then its extra bits where it has any (spec/41_header_bit_encoder.md rule R188). -/
def tokenFields (clRev : List (BitVec 7)) (clLen : List (BitVec 3)) (sym extra ebits : Nat) : List Field :=
  symbolField clRev clLen sym :: (if ebits > 0 then [field extra ebits] else [])

/-! ### The stored block -/

/-- The header bytes of a stored block: the carried bits, BFINAL and two zero bits, padded to whole bytes
(spec/42_block_compressor.md rule R230). -/
def storedHeader (cb : BitVec 7) (cbn : BitVec 3) (bf : Bool) : List Byte :=
  bytesLe ((cb.toNat % 2 ^ cbn.toNat) ||| (bitNat bf <<< cbn.toNat)) (ceilDiv8 (cbn.toNat + 3))

/-- `STORED(cb, cbn, bf, data)`: header, LEN, NLEN, data (spec/42_block_compressor.md rules R230, R231). -/
def stored (cb : BitVec 7) (cbn : BitVec 3) (bf : Bool) (data : List Byte) : List Byte :=
  storedHeader cb cbn bf ++ bytesLe data.length 2 ++ bytesLe (65535 - data.length) 2 ++ data

/-! ### The running checksum -/

/-- One of the eight shifts of a byte's turn (spec/42_block_compressor.md rule R245). -/
def crcShift (x : BitVec 32) : BitVec 32 :=
  if x.getLsbD 0 then (x >>> 1) ^^^ 0xEDB88320#32 else x >>> 1

/-- One byte's turn (spec/42_block_compressor.md rule R245). -/
def crcByte (x : BitVec 32) (b : Byte) : BitVec 32 :=
  crcShift (crcShift (crcShift (crcShift (crcShift (crcShift (crcShift (crcShift (x ^^^ b.setWidth 32))))))))

/-- `CRC32UPD(c, bytes)` (spec/42_block_compressor.md rule R245). -/
def crc32upd (c : BitVec 32) (bytes : List Byte) : BitVec 32 :=
  bytes.foldl crcByte (c ^^^ 0xFFFFFFFF#32) ^^^ 0xFFFFFFFF#32

end Sys2Proof.Machine
end

