-- ==== Sys2Proof/Machine/BitWriter.lean ====
section
/-! DEFINITION. The bit accumulator: BW.WRITE and BW.FLUSH (spec/41_header_bit_encoder.md rules R170 to R178). -/

namespace Sys2Proof.Machine

/-- The reasons of `fault` (spec/60_exceptions.md rule R340). No register records the reason. -/
inductive FaultReason where
  | headerCap
  | badCompletion
  | huffInfeasible
  | canonOverflow
  | reconversion
  | outOfRegion
deriving DecidableEq, Repr

/-- The accumulator's group of state (spec/41_header_bit_encoder.md rule R171): ACC, NB, TOTAL, OUTP and the region HDR of the
selected AECS instance. -/
structure BitWriter where
  acc : BitVec 64
  nb : BitVec 7
  total : BitVec 12
  outp : BitVec 9
  hdr : Memory
deriving DecidableEq, Repr

/-- What a write leaves: the accumulator after it, or the reason of the fault and the accumulator as the fault found it. -/
abbrev WriteResult := Except (FaultReason × BitWriter) BitWriter

/-- The append of BW.WRITE, before the test for a full group (spec/41_header_bit_encoder.md rules R172, R173): only the low n
bits of the value count. -/
def BitWriter.append (b : BitWriter) (f : Field) : BitWriter :=
  { b with
    acc := b.acc ||| (BitVec.ofNat 64 (f.bits.toNat % 2 ^ f.n) <<< b.nb.toNat)
    nb := BitVec.ofNat 7 (b.nb.toNat + f.n)
    total := BitVec.ofNat 12 (b.total.toNat + f.n) }

/-- The store of a full 48-bit group as 6 bytes (spec/41_header_bit_encoder.md rule R172). -/
def BitWriter.drainGroup (b : BitWriter) : WriteResult :=
  if b.nb.toNat ≥ groupBits then
    match memWrite hdrRegionBytes b.hdr b.outp.toNat 6 b.acc.toNat with
    | none => .error (.outOfRegion, b)
    | some hdr =>
      .ok { b with
        hdr := hdr
        outp := BitVec.ofNat 9 (b.outp.toNat + 6)
        acc := b.acc >>> 48
        nb := BitVec.ofNat 7 (b.nb.toNat - 48) }
  else .ok b

/-- `BW.WRITE(bits, n)` (spec/41_header_bit_encoder.md rule R172); the cap is tested before the append (R175). -/
def BitWriter.write (b : BitWriter) (f : Field) : WriteResult :=
  if b.total.toNat + f.n > hdrCapBits then .error (.headerCap, b) else (b.append f).drainGroup

/-- Several writes in order, stopping at the first fault. -/
def BitWriter.writeAll (b : BitWriter) : List Field → WriteResult
  | [] => .ok b
  | f :: fs =>
    match b.write f with
    | .ok b' => b'.writeAll fs
    | .error e => .error e

/-- `BW.FLUSH()` (spec/41_header_bit_encoder.md rule R174): the accumulator after it and the number of bits written. -/
def BitWriter.flush (b : BitWriter) : Except (FaultReason × BitWriter) (BitWriter × BitVec 12) :=
  match memWrite hdrRegionBytes b.hdr b.outp.toNat (ceilDiv8 b.nb.toNat) b.acc.toNat with
  | none => .error (.outOfRegion, b)
  | some hdr => .ok ({ acc := 0, nb := 0, total := 0, outp := 0, hdr := hdr }, b.total)

end Sys2Proof.Machine
end

