-- ==== Sys2Proof/Machine/Flags.lean ====
section
/-! DEFINITION. The status flags, the error classes and the control and status registers as the host reads them
(spec/10_state.md rules R28, R29, R35, R36; spec/60_exceptions.md rules R331, R337). -/

namespace Sys2Proof.Machine

/-- The error classes (spec/60_exceptions.md rule R331). E_FORMAT is the container layer's: the DFE never raises it. -/
inductive ErrClass where
  | ok
  | config
  | size
  | hw
  | state
  | format
  | sink
  | src
deriving DecidableEq, Repr

/-- The codes of RESULT.ECLASS (spec/30_encoding.md rule R109, spec/60_exceptions.md rule R331). -/
def ErrClass.code : ErrClass → BitVec 4
  | .ok => 0
  | .config => 1
  | .size => 2
  | .hw => 3
  | .state => 4
  | .format => 5
  | .sink => 6
  | .src => 7

/-- BUSY (spec/10_state.md rule R29): UPC is neither IDLE nor FAULT. -/
def State.busy (s : State) : Bool := decide (s.upc ≠ Upc.idle) && decide (s.upc ≠ Upc.faulted)

/-- One bit of a register at a position. -/
def bitAt (b : Bool) (k : Nat) : Word := (BitVec.ofBool b).setWidth 32 <<< k

/-- A field of a register at a position. -/
def fieldAt {w : Nat} (v : BitVec w) (k : Nat) : Word := v.setWidth 32 <<< k

/-- STATUS (spec/10_state.md rule R35). -/
def State.statusWord (s : State) : Word :=
  bitAt s.busy 0 ||| bitAt s.err 1 ||| bitAt s.fin 2 ||| bitAt s.fault 3 ||| bitAt s.tgl 4 ||| bitAt s.closed 5
    ||| bitAt s.nodev 6 ||| bitAt s.bound 7 ||| fieldAt s.upc 8

/-- RESULT (spec/10_state.md rule R35). -/
def State.resultWord (s : State) : Word := fieldAt s.eclass 0 ||| fieldAt s.hwstatus 8 ||| fieldAt s.hwerr 16

/-- CARRY (spec/10_state.md rule R35). -/
def State.carryWord (s : State) : Word := fieldAt s.cb 0 ||| fieldAt s.cbn 8

/-- A host's read of the CSR space (spec/10_state.md rules R35, R36): no side effect; CMD reads 0; an offset above 0x20 or not a
multiple of 4 reads 0. DESIGN CHOICE (log 25): a read while BUSY answers the register's value of that moment; unsafe. -/
def csrRead (s : State) (off : Nat) : Word :=
  if off = 0x04 then s.statusWord
  else if off = 0x08 then s.resultWord
  else if off = 0x0C then s.count.extractLsb' 0 32
  else if off = 0x10 then s.count.extractLsb' 32 32
  else if off = 0x14 then s.crc
  else if off = 0x18 then s.carryWord
  else if off = 0x1C then fieldAt s.hb 0
  else if off = 0x20 then s.maxxfer
  else 0

/-- The command in hand is READ_ALL: its OP field is 0x4 (spec/30_encoding.md rule R92). -/
def State.inReadAll (s : State) : Bool := decide (cmdOp s.cmd = 4#4)

/-- The stream takes no block (spec/42_block_compressor.md rule R211, spec/60_exceptions.md rule R337): no sink, closed, or the
final block has gone out. -/
def State.blockRefused (s : State) : Bool := !s.bound || s.closed || s.fin

/-- CLOSE is out of state (spec/42_block_compressor.md rule R241): no sink, closed, or the final block has not gone out. -/
def State.closeRefused (s : State) : Bool := !s.bound || s.closed || !s.fin

/-- A command that has passed CHECK, with the operands the sequence needs (spec/42_block_compressor.md rule R229: CHECK goes on
by OP). -/
inductive CheckedOp where
  | reset
  | block (final : Bool) (len : BitVec 16)
  | close
  | readAll
deriving DecidableEq, Repr

/-- The tests of a command that needs an open stream, where none of them fires (spec/60_exceptions.md rule R338 (4), (5)). -/
def State.streamTests (s : State) (refused : Bool) (op : CheckedOp) : Except ErrClass CheckedOp :=
  if s.err then .error .state else if refused then .error .state else .ok op

/-- The tests of CHECK: the first cause of spec/60_exceptions.md rule R338 (2) to (6) that the command word meets, or the
command where it meets none (spec/42_block_compressor.md rules R211, R240, R241, R242). -/
def State.checkCommand (s : State) : Except ErrClass CheckedOp :=
  if s.nodev then .error .config
  else
    match decodeCommand s.cmd with
    | .ok .reset => .ok .reset
    | .ok (.writeBlock final len) =>
      match s.streamTests s.blockRefused (.block final len) with
      | .ok op => if len.toNat > blockMax then .error .size else .ok op
      | .error c => .error c
    | .ok .readAll => s.streamTests s.blockRefused .readAll
    | .ok .close => s.streamTests s.closeRefused .close
    | _ => .error .config

/-- `CR.status = SUCCESS` (spec/43_accelerator_interface.md rule R267), of a job that was submitted (R262; log 38). -/
def State.isSuccess (s : State) : Bool := !s.submitFailed && decide (s.cr.status = s.par.success)

/-- `IsOverflow(CR)` (spec/43_accelerator_interface.md rule R267): a pair of OVERFLOW_SET whose status is not success. A submission
that failed is never an overflow (R262). -/
def State.isOverflow (s : State) : Bool :=
  !s.submitFailed && !s.isSuccess && s.par.overflowSet.contains (s.cr.status, s.cr.error)

end Sys2Proof.Machine
end

