-- ==== Sys2Proof/Machine/Huffman.lean ====
section
/-! DEFINITION. The Huffman Tree Generator: HUFFLEN with its contract and its reference instance, and CANON
(spec/40_huffman_generator.md rules R130 to R143). Both are functions of their arguments alone. -/

namespace Sys2Proof.Machine

/-! ### HUFFLEN: the contract -/

/-- `m`, the number of used symbols (R131). -/
def usedCount (freq : List Nat) : Nat := freq.countP (0 < ·)

/-- The Kraft sum of a length array times 2^L, over the symbols that have a code (R136, R140). -/
def kraftSum (L : Nat) (lens : List Nat) : Nat := ((lens.filter (0 < ·)).map fun l => 2 ^ (L - l)).sum

/-- `sum freq[i] * len[i]` (R137). -/
def huffCost (freq lens : List Nat) : Nat := (List.zipWith (· * ·) freq lens).sum

/-- Rules R132 and R136 for two or more used symbols: a length for each symbol, 0 exactly for the unused ones, none above the
cap, Kraft equality. -/
def huffValid (freq : List Nat) (L : Nat) (lens : List Nat) : Bool :=
  decide (lens.length = freq.length) &&
    (List.zip freq lens).all (fun p => decide (p.1 = 0 ↔ p.2 = 0) && decide (p.2 ≤ L)) &&
    decide (kraftSum L lens = 2 ^ L)

/-! ### HUFFLEN: the reference instance (R139, package-merge) -/

/-- An item: a weight and a multiset of symbols. -/
structure HuffItem where
  w : Nat
  syms : List Nat
deriving DecidableEq, Repr

/-- The order of the leaves and of MERGE: by weight. -/
abbrev HuffItem.le (a b : HuffItem) : Prop := a.w ≤ b.w

/-- LEAVES: one item for each used symbol, by frequency and then by index (the sort is stable). -/
def huffLeaves (freq : List Nat) : List HuffItem :=
  (((List.zipIdx freq).filter fun p => 0 < p.1).map fun p => (⟨p.1, [p.2]⟩ : HuffItem)).insertionSort HuffItem.le

/-- PK: neighbours joined in pairs; an odd last item is dropped. -/
def huffPackages : List HuffItem → List HuffItem
  | a :: b :: t => ⟨a.w + b.w, a.syms ++ b.syms⟩ :: huffPackages t
  | _ => []

/-- MERGE against one leaf: the packages lighter than the leaf go first, then the leaf, then the rest. -/
def huffMergeInto (a : HuffItem) (rest : List HuffItem → List HuffItem) : List HuffItem → List HuffItem
  | [] => a :: rest []
  | p :: ps => if a.w ≤ p.w then a :: rest (p :: ps) else p :: huffMergeInto a rest ps

/-- MERGE(A, B): the merge by weight; on equal weights the head of A is taken first. -/
def huffMerge : List HuffItem → List HuffItem → List HuffItem
  | [], ps => ps
  | a :: as, ps => huffMergeInto a (huffMerge as) ps

/-- CUR after k rounds. -/
def huffRounds (leaves : List HuffItem) : Nat → List HuffItem
  | 0 => leaves
  | k + 1 => huffMerge leaves (huffPackages (huffRounds leaves k))

/-- `HUFFLEN_REF(freq, L)` (R139) for at most 2^L used symbols; more are the caller's `fault HuffInfeasible` (R135). -/
def hufflenRef (freq : List Nat) (L : Nat) : List Nat :=
  let m := usedCount freq
  if m ≤ 1 then freq.map fun f => if 0 < f then 1 else 0
  else
    let taken := ((huffRounds (huffLeaves freq) (L - 1)).take (2 * m - 2)).flatMap HuffItem.syms
    (List.range freq.length).map fun i => taken.count i

/-- Whether a choice of an instance may stand for HUFFLEN: it meets R132 and R136, and R137 in that it costs no more than the
reference instance, which is optimal. -/
def huffAdmissible (freq : List Nat) (L : Nat) (lens : List Nat) : Bool :=
  huffValid freq L lens && decide (huffCost freq lens ≤ huffCost freq (hufflenRef freq L))

/-- `HUFFLEN(freq, L)` (R131 to R138) of an implementation: the reference instance but where the implementation names another
answer that meets the contract.
DEDUCED (log 9): an open function constrained by the contract; safe. -/
def hufflen (choices : List HuffChoice) (freq : List Nat) (L : Nat) : List Nat :=
  if usedCount freq ≤ 1 then hufflenRef freq L
  else
    match choices.find? fun c => decide (c.freq = freq) && decide (c.cap = L) && huffAdmissible freq L c.lens with
    | some c => c.lens
    | none => hufflenRef freq L

/-- The test of R135: more used symbols than 2^L. -/
def huffInfeasible (freq : List Nat) (L : Nat) : Bool := decide (2 ^ L < usedCount freq)

/-- The phantom distance code (R144): where no distance is used, symbol 0 gets length 1. -/
def withPhantom (lens : List Nat) : List Nat :=
  if lens.all (· = 0) then lens.set 0 1 else lens

/-! ### CANON -/

/-- `COUNTL[l]` (R140): the number of symbols of length l; symbols of length 0 are not counted. -/
def lengthCount (lens : List Nat) (l : Nat) : Nat := if l = 0 then 0 else lens.count l

/-- `NEXT[l]` before the assignment (R140): `NEXT[0] = 0`, `NEXT[l] = (NEXT[l-1] + COUNTL[l-1]) << 1`. -/
def firstCode (lens : List Nat) : Nat → Nat
  | 0 => 0
  | l + 1 => (firstCode lens l + lengthCount lens l) <<< 1

/-- The assignment of R141: symbols in index order, each the next code of its length. The codes and NEXT after them. -/
def assignCodes (next : List Nat) : List Nat → List Nat × List Nat
  | [] => ([], next)
  | l :: ls =>
    if l = 0 then
      let r := assignCodes next ls
      (0 :: r.1, r.2)
    else
      let r := assignCodes (next.set l (next.getD l 0 + 1)) ls
      (next.getD l 0 :: r.1, r.2)

/-- What CANON computes: the working arrays COUNTL and NEXT and the codes. -/
structure CanonResult where
  countl : List Nat
  next : List Nat
  codes : List Nat
deriving DecidableEq, Repr

/-- CANON without its check (R140, R141). -/
def canonResult (lens : List Nat) (L : Nat) : CanonResult :=
  let r := assignCodes ((List.range (L + 1)).map (firstCode lens)) lens
  { countl := (List.range (L + 1)).map (lengthCount lens), next := r.2, codes := r.1 }

/-- `CANON(len, L)` (R140 to R143); none is `fault CanonOverflow`: some `code[i] >= 2^len[i]` (R146).
DEDUCED (log 23): R146 says a model may take the fault; safe. DESIGN CHOICE (log 23): the test comes first, so COUNTL and NEXT and the
tables are then as they were; unsafe. -/
def canon (lens : List Nat) (L : Nat) : Option CanonResult :=
  let r := canonResult lens L
  if (List.zip r.codes lens).all fun p => decide (p.1 < 2 ^ p.2) then some r else none

/-- The packed entries of a table (R143). -/
def packedEntries (codes lens : List Nat) : List (BitVec 32) := List.zipWith (fun c l => packedEntry l c) codes lens

/-- The bit-reversed codes of a table (R142). -/
def reversedCodes (codes lens : List Nat) : List Nat := List.zipWith (fun c l => rev c l) codes lens

end Sys2Proof.Machine
end

