-- ==== Sys2Proof/Machine/Tokens.lean ====
section
/-! DEFINITION. The counts and the run-length tokens of a dynamic header (spec/41_header_bit_encoder.md rules R182, R183, R187). -/

namespace Sys2Proof.Machine

/-- `1 + max { i | l[i] != 0 }`, 0 where every element is 0. -/
def lastUsed : List Nat → Nat
  | [] => 0
  | v :: vs => if lastUsed vs = 0 then (if v = 0 then 0 else 1) else lastUsed vs + 1

/-- NLIT (R182). -/
def nlitOf (llLen : List Nat) : Nat := max 257 (lastUsed llLen)

/-- NDIST (R182). -/
def ndistOf (dLen : List Nat) : Nat := max 1 (lastUsed dLen)

/-- NCLEN (R187). -/
def nclenOf (clLen : List Nat) : Nat := max 4 (lastUsed (scan.map fun s => clLen.getD s 0))

/-- `SEQ` (R183). -/
def lengthSeq (llLen dLen : List Nat) : List Nat := llLen.take (nlitOf llLen) ++ dLen.take (ndistOf dLen)

/-- A sequence cut into maximal runs: values with their repeat counts. -/
def runsOf : List Nat → List (Nat × Nat)
  | [] => []
  | v :: vs =>
    match runsOf vs with
    | [] => [(v, 1)]
    | (w, k) :: t => if v = w then (w, k + 1) :: t else (v, 1) :: (w, k) :: t

/-- A token from numbers. -/
def token (sym extra ebits : Nat) : Token := ⟨BitVec.ofNat 5 sym, BitVec.ofNat 7 extra, BitVec.ofNat 3 ebits⟩

/-- The tokens of a run of zeros (R183); the first argument is fuel, at least the run. -/
def zeroTokens : Nat → Nat → List Token
  | 0, _ => []
  | fuel + 1, run =>
    if run ≥ 11 then token 18 (min run 138 - 11) 7 :: zeroTokens fuel (run - min run 138)
    else if run ≥ 3 then [token 17 (run - 3) 3]
    else List.replicate run (token 0 0 0)

/-- The tokens of the repeats of a non-zero value after the first (R183); the first argument is fuel, at least the run. -/
def repeatTokens (v : Nat) : Nat → Nat → List Token
  | 0, _ => []
  | fuel + 1, run =>
    if run ≥ 3 then token 16 (min run 6 - 3) 2 :: repeatTokens v fuel (run - min run 6)
    else List.replicate run (token v 0 0)

/-- The tokens of one run (R183). -/
def runTokens (r : Nat × Nat) : List Token :=
  if r.1 = 0 then zeroTokens r.2 r.2 else token r.1 0 0 :: repeatTokens r.1 (r.2 - 1) (r.2 - 1)

/-- TOK (R183): the greedy scan over a sequence of lengths. -/
def tokenize (seq : List Nat) : List Token := (runsOf seq).flatMap runTokens

/-- `CLFREQ[s]` (R183): how often each code-length symbol occurs. -/
def tokenFreq (toks : List Token) : List Nat := (List.range nCL).map fun s => toks.countP fun t => t.sym.toNat = s

/-- What a reader of the stream makes of the tokens (R184): the lengths they stand for, `prev` the length before. -/
def expandTokens (prev : Nat) : List Token → List Nat
  | [] => []
  | t :: ts =>
    if t.sym.toNat = 16 then List.replicate (3 + t.extra.toNat) prev ++ expandTokens prev ts
    else if t.sym.toNat = 17 then List.replicate (3 + t.extra.toNat) 0 ++ expandTokens 0 ts
    else if t.sym.toNat = 18 then List.replicate (11 + t.extra.toNat) 0 ++ expandTokens 0 ts
    else t.sym.toNat :: expandTokens t.sym.toNat ts

end Sys2Proof.Machine
end

