-- ==== Sys2Proof/Machine/Ops.lean ====
section
/-! DEFINITION. The shared operations over the state: the sequencer's moves, the two error entries (raise and fault), the AECS in
use, the accumulator's group, the sink, Submit, the end of a block, the host's turn and the start of a command. -/

namespace Sys2Proof.Machine

/-- The outcomes of a meaning. -/
abbrev Out := Host.Outcome State Fault Refusal

/-! ### The sequencer (spec/42_block_compressor.md rule R229) -/

/-- `UPC <- target`. -/
def State.goto (s : State) (u : BitVec 8) : State := { s with upc := u }

/-- The result registers at a command's end (spec/10_state.md rule R34). -/
def State.setResult (s : State) (c : ErrClass) (hwstatus hwerr : BitVec 8) (count : BitVec 64) : State :=
  { s with eclass := c.code, hwstatus := hwstatus, hwerr := hwerr, count := count }

/-- The end of a command that did what its rule says (spec/42_block_compressor.md rule R228).
DESIGN CHOICE (log 43): the working arrays, unspecified outside a command (spec/10_state.md rule R32), stay as the command left them;
unsafe. -/
def State.finish (s : State) (count : BitVec 64) : State := (s.setResult .ok 0 0 count).goto Upc.idle

/-! ### Errors: raise and fault -/

/-- Whether a class latches ERR (spec/60_exceptions.md rule R331, R333). -/
def ErrClass.latches : ErrClass → Bool
  | .hw => true
  | .sink => true
  | _ => false

/-- `raise <Class>` (spec/60_exceptions.md rule R333), with the COUNT it leaves: the command ends with the class, E_HW records
the completion record's status and error, E_HW and E_SINK latch ERR. It saves nothing and vectors nowhere; R342: there is no
return from it. -/
def State.raise (s : State) (c : ErrClass) (count : BitVec 64) : State :=
  let s' := { s with err := s.err || c.latches }
  (s'.setResult c (if c = .hw then s.cr.status else 0) (if c = .hw then s.cr.error else 0) count).goto Upc.idle

/-- COUNT of a command that a block's error ends: 0, and for READ_ALL the bytes of the blocks it completed
(spec/60_exceptions.md rule R333, spec/42_block_compressor.md rule R242). Which command it is, the word in `cmd` says, also where the
command has ended (log 46). -/
def State.abandonCount (s : State) : BitVec 64 := if s.inReadAll then s.rtotal else 0

/-- A raise from a micro-operation of a block. -/
def State.raiseBlock (s : State) (c : ErrClass) : State := s.raise c s.abandonCount

/-- `fault <Reason>` (spec/60_exceptions.md rule R340): FAULT <- 1, UPC <- 0xF0, no result written, whatever the reason. -/
def State.enterFault (s : State) (_reason : FaultReason) : State := { s with fault := true, upc := Upc.faulted }

/-! ### The AECS in use (spec/20_memory.md rule R72) -/

/-- `AECS[k]`. -/
def State.aecs (s : State) (k : Bool) : Aecs := if k then s.aecs1 else s.aecs0

/-- `AECS[k] <- a`. -/
def State.setAecs (s : State) (k : Bool) (a : Aecs) : State :=
  if k then { s with aecs1 := a } else { s with aecs0 := a }

/-- `AECS[TGL]`. -/
def State.cur (s : State) : Aecs := s.aecs s.tgl

/-- `AECS[TGL] <- a`. -/
def State.setCur (s : State) (a : Aecs) : State := s.setAecs s.tgl a

/-- HIST_LL of the AECS in use, as numbers. -/
def State.freqLL (s : State) : List Nat := (s.cur.histLL.entries nLL).map BitVec.toNat

/-- HIST_D of the AECS in use, as numbers. -/
def State.freqD (s : State) : List Nat := (s.cur.histD.entries nD).map BitVec.toNat

/-! ### The working arrays as numbers (spec/10_state.md rule R32) -/

/-- An array of n elements as numbers. -/
def arrayNat {w : Nat} (n : Nat) (l : List (BitVec w)) : List Nat := (padded n l).map BitVec.toNat

/-- Numbers as an array of w-bit elements. -/
def toArray (w : Nat) (l : List Nat) : List (BitVec w) := l.map (BitVec.ofNat w)

/-- The first elements of an array of n written, the others as they were. -/
def writeFront {w : Nat} (n : Nat) (old new : List (BitVec w)) : List (BitVec w) := new ++ (padded n old).drop new.length

/-- COUNTL and NEXT as CANON leaves them (R140, R141): elements 0 to L written, elements above L as they were. -/
def Work.withCanon (k : Work) (r : CanonResult) : Work :=
  { k with countl := writeFront 16 k.countl (toArray 9 r.countl), next := writeFront 16 k.next (toArray 16 r.next) }

/-! ### The accumulator's group (spec/41_header_bit_encoder.md rule R171) -/

/-- ACC, NB, TOTAL, OUTP and HDR of the AECS in use. -/
def State.bitWriter (s : State) : BitWriter := ⟨s.acc, s.nb, s.total, s.outp, s.cur.hdr⟩

/-- The accumulator's group written back. -/
def State.setBitWriter (s : State) (b : BitWriter) : State :=
  { (s.setCur { s.cur with hdr := b.hdr }) with acc := b.acc, nb := b.nb, total := b.total, outp := b.outp }

/-- Fields written in order through the accumulator, then the next micro-operation; on a fault, the writes before it stand
(log 28). -/
def State.writeFields (s : State) (fs : List Field) (target : BitVec 8) : State :=
  match s.bitWriter.writeAll fs with
  | .ok b => (s.setBitWriter b).goto target
  | .error (r, b) => (s.setBitWriter b).enterFault r

/-! ### The sink (spec/20_memory.md rule R66, spec/60_exceptions.md rule R336) -/

/-- `SinkAppend(bytes)`: the state after it and whether the sink took the bytes. A failing sink has taken a prefix. -/
def State.sinkAppend (s : State) (bytes : List Byte) : State × Bool :=
  match s.sinkQ with
  | [] => ({ s with sink := s.sink ++ bytes }, true)
  | .accept :: q => ({ s with sink := s.sink ++ bytes, sinkQ := q }, true)
  | .fail k :: q => ({ s with sink := s.sink ++ bytes.take k, sinkQ := q }, false)

/-- The Carried Bits cleared (spec/10_state.md rule R24). -/
def State.clearCarry (s : State) : State := { s with cb := 0, cbn := 0 }

/-- A block's bytes handed to the sink, then what follows on success; on a sink error the command ends with E_SINK and nothing
of what follows happens (spec/60_exceptions.md rule R336). -/
def State.emit (s : State) (bytes : List Byte) (next : State → State) : State :=
  let r := s.sinkAppend bytes
  if r.2 then next r.1 else r.1.raiseBlock .sink

/-! ### Submit (spec/43_accelerator_interface.md rules R261 to R265) -/

/-- `IN[0 .. N-1]`, as a job's descriptor names it.
DESIGN CHOICE (log 45): N is not tested here, so with N above 32768, which CHECK excludes (spec/42_block_compressor.md rule R211), a
job has bytes beyond IN, read as unlisted ones; unsafe. -/
def State.block (s : State) : List Byte := s.inMem.readBytes 0 s.work.n.toNat

/-- `IN[0 .. N-1]` as the DFE reads it; none is `fault OutOfRegion` (spec/20_memory.md rule R60). -/
def State.readBlock (s : State) : Option (List Byte) := memReadBytes blockMax s.inMem 0 s.work.n.toNat

/-- The descriptor of a statistics job (R263, R264). -/
def State.statJob (s : State) : Job :=
  { kind := .stat, input := s.block, aecs := s.tgl, out := none, outCap := 0, crcSeed := 0, final := false }

/-- The descriptor of an encode job (R263, R265, spec/42_block_compressor.md rule R220). -/
def State.encodeJob (s : State) : Job :=
  { kind := .encode, input := s.block, aecs := s.tgl, out := some .out, outCap := s.par.outCap, crcSeed := s.crc,
    final := s.work.bf }

/-- A table that a job wrote: its n entries, an entry that the list does not reach being 0 (log 36). -/
def jobTable (m : Memory) (n : Nat) : Option (List (BitVec 32)) → Memory
  | none => m
  | some l => m.setEntries 0 (padded n l)

/-- The bytes that an encode job wrote to OUT (R265: OUT[0 .. CR.produced-1]), at most `out_cap` of them; a byte that the list does
not reach is 0 (log 36). -/
def jobOutput (outCap : Nat) (r : JobAnswer) : List Byte :=
  padded (min outCap (max r.cr.produced.toNat r.out.length)) r.out

/-- What a job leaves in its AECS instance: it may write any byte of it (R270 AS5), nothing outside the regions' sizes. SCRATCH and
the rest of the instance are whatever the answer says (log 40). -/
def Aecs.afterJob (a : Aecs) (r : JobAnswer) : Aecs :=
  { scratch := r.scratch.getD a.scratch
    histLL := jobTable a.histLL nLL r.histLL
    histD := jobTable a.histD nD r.histD
    hdr := a.hdr.writeBytes 0 ((r.hdr.getD []).take hdrRegionBytes)
    hdrBits := r.hdrBits.getD a.hdrBits
    rest := r.rest.getD a.rest }

/-- What a job of a kind is known to have written: a statistics job overwrites every counter (spec/20_memory.md rule R77). -/
def JobAnswer.written (r : JobAnswer) : JobKind → JobAnswer
  | .stat => { r with histLL := some (r.histLL.getD []), histD := some (r.histD.getD []) }
  | .encode => r

/-- The output buffer after a job: nothing is written where the descriptor names none. -/
def jobOut (out : Memory) (j : Job) (r : JobAnswer) : Memory :=
  match j.out with
  | none => out
  | some .out => out.writeBytes 0 (jobOutput j.outCap r)

/-- A job's effects, all between the call of Submit and its return (R262): the descriptor, CR, the job's AECS instance and the
output buffer that the descriptor names. A submission that failed is recorded as such (log 38).
DEDUCED (log 7): it writes nothing else (R270 AS5); unsafe. -/
def State.afterJob (s : State) (j : Job) (r : JobAnswer) : State :=
  { (s.setAecs j.aecs ((s.aecs j.aecs).afterJob (r.written j.kind))) with
    cr := r.record, submitFailed := r.submitStatus.isSome, desc := some j, out := jobOut s.out j r }

/-- The step of a micro-operation that submits a job: it asks maxTransferSize(), latches the answer in MAXXFER, checks the sizes
(spec/20_memory.md rule R74), submits and waits; `fits m` says that a device maximum m is large enough, `done` is what follows
the job's return. A query or a job that has no answer yet leaves the state as it is: the DFE waits (log 6).
R271: there is no time-out. -/
def State.submit (s : State) (j : Job) (fits : Nat → Bool) (done : State → State) : State :=
  match s.xferQ with
  | [] => s
  | m :: q =>
    let s1 := { s with xferQ := q, maxxfer := BitVec.ofNat 32 m }
    if fits m then
      match s1.jobQ with
      | [] => s
      | r :: q' => done ({ s1 with jobQ := q' }.afterJob j r)
    else s1.raiseBlock .size

/-! ### The end of a block (spec/42_block_compressor.md rules R228, R242) -/

/-- A block has reached the sink: FIN <- BF; in a WRITE_BLOCK the command ends with COUNT, in a READ_ALL the block's length is
added to `total` and the loop head is next (log 18). -/
def State.endBlock (s : State) (count : BitVec 64) : State :=
  let s1 := { s with fin := s.work.bf }
  if s.inReadAll then { s1 with rtotal := s.rtotal + count, upc := Upc.xReadall } else s1.finish count

/-! ### Commands and the host -/

/-- A command word is taken at IDLE: it is held for the command's duration and CHECK is next (spec/60_exceptions.md rule R350,
spec/42_block_compressor.md rule R229). -/
def State.takeCommand (s : State) (w : Word) : State := { s with cmd := w, upc := Upc.check }

/-- A write to CMD (spec/60_exceptions.md rule R350): at IDLE it is a command; while FAULT it is dropped; while BUSY the host is
held, so the write stays the host's next action. -/
def State.writeCmd (s : State) (w : Word) : State :=
  if s.upc = Upc.idle then s.takeCommand w
  else if s.upc = Upc.faulted then s
  else { s with script := .csrWrite 0 w :: s.script }

/-- A write to the CSR space (spec/10_state.md rule R36): CMD at offset 0; a write to any other offset is ignored. -/
def State.csrWrite (s : State) (off : Nat) (w : Word) : State := if off = 0 then s.writeCmd w else s

/-- The host writes a Block into IN (spec/20_memory.md rules R60, R68); one that does not fit is an access outside the space
(log 34). -/
def State.loadIn (s : State) (bytes : List Byte) : State :=
  if inRegion blockMax 0 bytes.length then { s with inMem := s.inMem.writeBytes 0 bytes } else s.enterFault .outOfRegion

/-- Hardware reset as the host's action (spec/70_reset_and_hazards.md rule R370): every register and space of the DFE as after
`State.hwReset`; the inputs still to come, the parameters, the source and the bytes that a sink holds are not the DFE's. -/
def State.hardwareReset (s : State) (ready : Bool) : State :=
  { State.hwReset ready with
    par := s.par, script := s.script, xferQ := s.xferQ, jobQ := s.jobQ, sinkQ := s.sinkQ, src := s.src,
    released := if s.bound then s.sink :: s.released else s.released, freeCtr := s.freeCtr }

/-- The host's turn: its next action, where it has one. -/
def State.hostTurn (s : State) : State :=
  match s.script with
  | [] => s
  | .csrWrite off w :: q => { s with script := q }.csrWrite off w
  | .loadIn bytes :: q => { s with script := q }.loadIn bytes
  | .attachSource src :: q => { s with script := q, src := src }
  | .hardwareReset ready :: q => { s with script := q }.hardwareReset ready

end Sys2Proof.Machine
end

