-- ==== Sys2Proof/Machine/Block.lean ====
section
/-! DEFINITION. Steps 5 to 7 of the per-block sequence and the zero-length block: S5.ENCODE, S6.INTERPRET, S6.EMIT_CARRY,
S6.EMIT_ALL, S6.STORED, S6.FATAL, S7.UPDATE, Z.STORED (spec/42_block_compressor.md rules R212, R220 to R228). -/

namespace Sys2Proof.Machine

/-- S5.ENCODE (R220): the encode job, seeded with CRC. -/
def execS5Encode (s : State) : Out :=
  .next <|
    s.submit s.encodeJob (fun m => decide (s.work.n.toNat ≤ m) && decide (s.par.outCap ≤ m)) fun t =>
      t.goto Upc.s6Interpret

/-- PATH and the micro-operation that follows. -/
def State.takePath (s : State) (p : Path) (u : BitVec 8) : State := { s with work := { s.work with path := p }, upc := u }

/-- S6.INTERPRET (R221, R222): the classification of the completion record. -/
def execS6Interpret (s : State) : Out :=
  .next <|
    if s.isSuccess then
      if s.cr.produced.toNat > s.work.n.toNat + storedSlack then s.takePath .stored Upc.s6Stored
      else if s.work.bf = false ∧ s.cr.bitrem ≠ 0 then s.takePath .compressed Upc.s6EmitCarry
      else s.takePath .compressed Upc.s6EmitAll
    else if s.isOverflow then s.takePath .stored Upc.s6Stored
    else s.goto Upc.s6Fatal

/-- The last produced byte's valid bits held back as the new Carried Bits (R223). -/
def State.holdCarry (s : State) : State :=
  match memRead s.par.outCap s.out (s.cr.produced.toNat - 1) 1 with
  | none => s.enterFault .outOfRegion
  | some v => { s with cb := BitVec.ofNat 7 (v % 2 ^ s.cr.bitrem.toNat), cbn := s.cr.bitrem, upc := Upc.s7Update }

/-- S6.EMIT_CARRY (R223): all but the last produced byte to the sink, the last byte's valid bits into CB. With `CR.bitrem = 0`, which
S6.INTERPRET never sends here, no bit of the last byte is held (DESIGN CHOICE, log 47; unsafe). -/
def execS6EmitCarry (s : State) : Out :=
  .next <|
    if s.cr.produced.toNat = 0 then s.enterFault .badCompletion
    else
      match memReadBytes s.par.outCap s.out 0 (s.cr.produced.toNat - 1) with
      | none => s.enterFault .outOfRegion
      | some bytes => s.emit bytes State.holdCarry

/-- S6.EMIT_ALL (R224): every produced byte to the sink, the Carried Bits cleared. -/
def execS6EmitAll (s : State) : Out :=
  .next <|
    match memReadBytes s.par.outCap s.out 0 s.cr.produced.toNat with
    | none => s.enterFault .outOfRegion
    | some bytes => s.emit bytes fun t => t.clearCarry.goto Upc.s7Update

/-- S6.STORED (R225): the block stored verbatim, its header merged with the Carried Bits, which are cleared. -/
def execS6Stored (s : State) : Out :=
  .next <|
    match s.readBlock with
    | none => s.enterFault .outOfRegion
    | some data => s.emit (stored s.cb s.cbn s.work.bf data) fun t => t.clearCarry.goto Upc.s7Update

/-- S6.FATAL (R226): ERR <- 1, E_HW with the completion record's status and error. -/
def execS6Fatal (s : State) : Out := .next (s.raiseBlock .hw)

/-- S7.UPDATE (R227, R228, R244): the running checksum from the completion record, or computed where the job overflowed; the
toggle flips; the block ends. -/
def execS7Update (s : State) : Out :=
  .next <|
    if s.isSuccess then { s with crc := s.cr.crc, tgl := !s.tgl }.endBlock (s.work.n.setWidth 64)
    else
      match s.readBlock with
      | none => s.enterFault .outOfRegion
      | some data => { s with crc := crc32upd s.crc data, tgl := !s.tgl }.endBlock (s.work.n.setWidth 64)

/-- Z.STORED (R212): a zero-length block is an empty stored block; no job, CRC and TGL as they were. -/
def execZStored (s : State) : Out :=
  .next (s.emit (stored s.cb s.cbn s.work.bf []) fun t => t.clearCarry.endBlock 0)

end Sys2Proof.Machine
end

