-- ==== Sys2Proof/Machine/Command.lean ====
section
/-! DEFINITION. The four commands: the host writes the command word to CMD (spec/30_encoding.md rules R91, R92,
spec/60_exceptions.md rule R350). At IDLE the word is taken and CHECK is next; the rest of the command is the sequence of
micro-operations of spec/42_block_compressor.md rule R229.
DEDUCED (log 11): a command's own step is the write of its word; safe. -/

namespace Sys2Proof.Machine

/-- RESET (R240). -/
def execReset (s : State) : Out := .next (s.writeCmd (commandWord 1#4 false 0#16))

/-- WRITE_BLOCK len [, FINAL] (R210). -/
def execWriteBlock (final : Bool) (len : BitVec 16) (s : State) : Out := .next (s.writeCmd (commandWord 2#4 final len))

/-- CLOSE (R241). -/
def execClose (s : State) : Out := .next (s.writeCmd (commandWord 3#4 false 0#16))

/-- READ_ALL (R242). -/
def execReadAll (s : State) : Out := .next (s.writeCmd (commandWord 4#4 false 0#16))

end Sys2Proof.Machine
end

