-- ==== Sys2Proof/Machine/Control.lean ====
section
/-! DEFINITION. The micro-operations outside the per-block sequence: IDLE, CHECK, X.RESET, X.CLOSE, X.READALL, FAULT
(spec/42_block_compressor.md rules R211, R240 to R242; spec/60_exceptions.md rules R340, R350). -/

namespace Sys2Proof.Machine

/-- IDLE (R350): waits for a command; the host takes its turn. -/
def execIdle (s : State) : Out := .next s.hostTurn

/-- CHECK (R211, R338, R229): the first test that fires ends the command with no other change than the result registers;
otherwise the command's sequence starts. READ_ALL sets BF and N as WRITE_BLOCK does (R242, "CHECK as rule R211"), both to 0, which
a legal word has there (R94). -/
def execCheck (s : State) : Out :=
  .next <|
    match s.checkCommand with
    | .error c => s.raise c 0
    | .ok .reset => s.goto Upc.xReset
    | .ok .close => s.goto Upc.xClose
    | .ok .readAll =>
      { s with
        rtotal := 0, work := { s.work with bf := cmdFinal s.cmd, n := cmdLen s.cmd }, upc := Upc.xReadall }
    | .ok (.block final len) =>
      { s with
        work := { s.work with bf := final, n := len }
        upc := if len = 0#16 then Upc.zStored else Upc.s1Select }

/-- X.RESET (R240): every register of the third column of spec/10_state.md rule R43, a fresh empty sink, ECLASS = OK. The
contents of AECS[0], AECS[1], OUT and CR, and NODEV, FAULT and MAXXFER, stay. The working arrays are unspecified: a free value
(log 32). DESIGN CHOICE (log 15): the model's own symbol index `ci` stays; unsafe. -/
def execXReset (s : State) : Out :=
  .next <|
    { s with
      acc := 0, nb := 0, total := 0, outp := 0, cb := 0, cbn := 0, hb := 0, crc := 0, tgl := false
      err := false, fin := false, closed := false, conv := false, bound := true
      work := Config.freeWork s.freeCtr, freeCtr := s.freeCtr + 1
      sink := [], released := if s.bound then s.sink :: s.released else s.released : State }.finish 0

/-- X.CLOSE (R241), past the tests of CHECK (log 20): the sink is released, no byte is appended. -/
def execXClose (s : State) : Out := .next ({ s with closed := true }.finish 0)

/-- The next Block of READ_ALL's source put into IN, with its length and its final flag; the sequence of WRITE_BLOCK runs on it
(R242). -/
def State.startSourceBlock (s : State) (held : List Byte) (rest : Source) (final : Bool) : State :=
  { s with
    inMem := s.inMem.writeBytes 0 held, src := rest
    work := { s.work with bf := final, n := BitVec.ofNat 16 held.length }
    upc := if held.length = 0 then Upc.zStored else Upc.s1Select }

/-- X.READALL (R242), the loop head: after the final block (BF = 1) the command ends with COUNT = total; otherwise bytes are read
from SRC into IN until 32768 are held and one more read is answered, or SRC reports its end, or an error. One more byte: the 32768
are a non-final block. An error: E_SRC, and the bytes held are no block. The end: the bytes held are the final block, but where they
are 32768: DEDUCED (log 17), a non-final block, the zero-length final flush comes next; unsafe. No answer yet: the DFE waits
(log 19). DESIGN CHOICE (log 19): the byte that the one more read shows stays the first of SRC, also where the command is then
abandoned; unsafe. -/
def execXReadall (s : State) : Out :=
  .next <|
    if s.work.bf then s.finish s.rtotal
    else
      let held := s.src.bytes.take blockMax
      if blockMax < s.src.bytes.length then
        s.startSourceBlock held { s.src with bytes := s.src.bytes.drop blockMax } false
      else
        match s.src.status with
        | .pending => s
        | .ended => s.startSourceBlock held ⟨[], .ended⟩ (decide (held.length < blockMax))
        | .failed => { s with inMem := s.inMem.writeBytes 0 held, src := ⟨[], .failed⟩ }.raise .src s.rtotal

/-- FAULT (R340, R350): no successor but by hardware reset; a command written is dropped with no effect.
DEDUCED (log 12): the DFE stays, it does not stop the model; safe. -/
def execFaulted (s : State) : Out := .next s.hostTurn

end Sys2Proof.Machine
end

