-- ==== Sys2Proof/Machine/Header.lean ====
section
/-! DEFINITION. Step 4 of the per-block sequence, the serialisation of a dynamic block header: S4.TOKENIZE to S4.FLUSH
(spec/41_header_bit_encoder.md rules R180 to R189). -/

namespace Sys2Proof.Machine

/-- S4.TOKENIZE (R182, R183): NLIT, NDIST, TOK and CLFREQ. -/
def execS4Tokenize (s : State) : Out :=
  let ll := arrayNat nLL s.work.llLen
  let d := arrayNat nD s.work.dLen
  let toks := tokenize (lengthSeq ll d)
  .next
    { s with
      work :=
        { s.work with
          nlit := BitVec.ofNat 9 (nlitOf ll)
          ndist := BitVec.ofNat 5 (ndistOf d)
          tok := toks
          clFreq := toArray 9 (tokenFreq toks) }
      upc := Upc.s4HgenCl }

/-- S4.HGEN_CL (R148, R185): `CLLEN <- HUFFLEN(CLFREQ[0..18], 7)`. -/
def execS4HgenCl (s : State) : Out :=
  let freq := arrayNat nCL s.work.clFreq
  .next <|
    if huffInfeasible freq lCL then s.enterFault .huffInfeasible
    else
      { s with
        work := { s.work with clLen := toArray 3 (hufflen s.par.huffChoices freq lCL) }
        upc := Upc.s4CanonCl }

/-- S4.CANON_CL (R149, R185, R187): `CANON(CLLEN, 7)`, CLREV, NCLEN; no packed entry is written (R143). -/
def execS4CanonCl (s : State) : Out :=
  let lens := arrayNat nCL s.work.clLen
  .next <|
    match canon lens lCL with
    | none => s.enterFault .canonOverflow
    | some r =>
      { s with
        work :=
          { s.work.withCanon r with
            clRev := toArray 7 (reversedCodes r.codes lens)
            nclen := BitVec.ofNat 5 (nclenOf lens) }
        upc := Upc.s4Prefix }

/-- S4.PREFIX (R180): `BW.WRITE(CB, CBN)`; CB and CBN are not cleared. -/
def execS4Prefix (s : State) : Out := .next (s.writeFields (prefixFields s.cb s.cbn) Upc.s4Blkhdr)

/-- S4.BLKHDR (R181): `BW.WRITE(BF | (0b10 << 1), 3)`. -/
def execS4Blkhdr (s : State) : Out := .next (s.writeFields (blkhdrFields s.work.bf) Upc.s4Counts)

/-- S4.COUNTS (R186): HLIT in 5 bits, HDIST in 5, HCLEN in 4. -/
def execS4Counts (s : State) : Out :=
  .next (s.writeFields (countFields s.work.nlit.toNat s.work.ndist.toNat s.work.nclen.toNat) Upc.s4Cllens)

/-- S4.CLLENS (R187): the code-length code lengths in scan order, 3 bits each. -/
def execS4Cllens (s : State) : Out :=
  .next (s.writeFields (cllenFields s.work.clLen s.work.nclen.toNat) Upc.s4Seq)

/-- S4.SEQ (R188): each token's code and extra bits, in order. -/
def execS4Seq (s : State) : Out :=
  .next <|
    s.writeFields
      (s.work.tok.flatMap fun t => tokenFields s.work.clRev s.work.clLen t.sym.toNat t.extra.toNat t.ebits.toNat)
      Upc.s4Flush

/-- S4.FLUSH (R189): `HB <- BW.FLUSH()`, `AECS[TGL].HDRBITS <- HB`. -/
def execS4Flush (s : State) : Out :=
  .next <|
    match s.bitWriter.flush with
    | .error (r, b) => (s.setBitWriter b).enterFault r
    | .ok (b, t) =>
      let s1 := s.setBitWriter b
      { (s1.setCur { s1.cur with hdrBits := t }) with hb := t, upc := Upc.s5Encode }

end Sys2Proof.Machine
end

