-- ==== Sys2Proof/Machine/Tables.lean ====
section
/-! DEFINITION. Steps 1 to 3 of the per-block sequence: S1.SELECT, S2.STAT, S3.EOB, S3.HGEN_LL, S3.HGEN_D, S3.CANON_LL,
S3.CANON_D (spec/42_block_compressor.md rules R213 to R217; spec/40_huffman_generator.md rules R144, R148, R149). -/

namespace Sys2Proof.Machine

/-- S1.SELECT (R213): the scratch fields of AECS[TGL] reset, CONV <- 0; HIST_LL, HIST_D and HDR are not written. -/
def execS1Select (s : State) : Out :=
  .next ({ (s.setCur { s.cur with scratch := s.par.scratchInit }) with conv := false }.goto Upc.s2Stat)

/-- S2.STAT (R214): the statistics job; any status but success is fatal, never retried. -/
def execS2Stat (s : State) : Out :=
  .next <|
    s.submit s.statJob (fun m => decide (s.work.n.toNat ≤ m)) fun t =>
      if t.isSuccess then t.goto Upc.s3Eob else t.raiseBlock .hw

/-- S3.EOB (R215): `if HIST_LL[256] = 0: HIST_LL[256] <- 1`. -/
def execS3Eob (s : State) : Out :=
  .next <|
    (if s.cur.histLL.entry 256 = 0 then s.setCur { s.cur with histLL := s.cur.histLL.setEntry 256 1 } else s).goto
      Upc.s3HgenLl

/-- S3.HGEN_LL (R148): `LLLEN <- HUFFLEN(HIST_LL[0..285], 15)`. -/
def execS3HgenLl (s : State) : Out :=
  .next <|
    if huffInfeasible s.freqLL lMax then s.enterFault .huffInfeasible
    else
      { s with
        work := { s.work with llLen := toArray 4 (hufflen s.par.huffChoices s.freqLL lMax) }
        upc := Upc.s3HgenD }

/-- S3.HGEN_D (R148, R144): `DLEN <- HUFFLEN(HIST_D[0..29], 15)`, then the phantom code. -/
def execS3HgenD (s : State) : Out :=
  .next <|
    if huffInfeasible s.freqD lMax then s.enterFault .huffInfeasible
    else
      { s with
        work := { s.work with dLen := toArray 4 (withPhantom (hufflen s.par.huffChoices s.freqD lMax)) }
        upc := Upc.s3CanonLl }

/-- S3.CANON_LL (R149): not twice in a block (R33); CANON over LLLEN, packed in place over HIST_LL (R143). -/
def execS3CanonLl (s : State) : Out :=
  .next <|
    if s.conv then s.enterFault .reconversion
    else
      let lens := arrayNat nLL s.work.llLen
      match canon lens lMax with
      | none => s.enterFault .canonOverflow
      | some r =>
        { (s.setCur { s.cur with histLL := s.cur.histLL.setEntries 0 (packedEntries r.codes lens) }) with
          work := s.work.withCanon r, ci := 286, upc := Upc.s3CanonD }

/-- S3.CANON_D (R149): CANON over DLEN, packed in place over HIST_D, then CONV <- 1. -/
def execS3CanonD (s : State) : Out :=
  .next <|
    let lens := arrayNat nD s.work.dLen
    match canon lens lMax with
    | none => s.enterFault .canonOverflow
    | some r =>
      { (s.setCur { s.cur with histD := s.cur.histD.setEntries 0 (packedEntries r.codes lens) }) with
        work := s.work.withCanon r, ci := 316, conv := true, upc := Upc.s4Tokenize }

end Sys2Proof.Machine
end

