-- ==== Sys2Proof/Machine/Wire.lean ====
section
/-! DEFINITION. The wire items: what the DFE does when it emits one, as the micro-operations do in the midst of their own step
(spec/30_encoding.md rules R96, R98, R101, R110; spec/41_header_bit_encoder.md rules R181, R184, R188;
spec/42_block_compressor.md rule R230; spec/40_huffman_generator.md rule R143).
DESIGN CHOICE (log 14): each is also an instruction of its own, which leaves UPC as it is but for the entries into an error (a sink
error of HDR_STORED, log 16; the faults of log 37); unsafe.
DESIGN CHOICE (log 41): a token whose symbol has no code (CLLEN[sym] = 0, which R188 excludes in the DFE's own sequence) sends no code
bits, its extra bits alone; unsafe. -/

namespace Sys2Proof.Machine

/-- HDR_DYNAMIC (R98, R181): `BW.WRITE(BFINAL | (0b10 << 1), 3)`. -/
def execHdrDynamic (bfinal : Bool) (s : State) : Out := .next (s.writeFields (blkhdrFields bfinal) s.upc)

/-- HDR_STORED (R102, R230): the header merged with the Carried Bits and padded to a byte, then LEN, NLEN and the block's bytes;
the Carried Bits are cleared (R232). In the FAULT state nothing more reaches the sink (R340): the item is dropped there.
DEDUCED (log 16): the item stands for the whole stored block, and a sink error ends the command with E_SINK (R336), UPC at IDLE; safe.
DESIGN CHOICE (log 46): no flag is tested, NODEV, ERR, FIN, CLOSED and BOUND included, and FIN, CRC, TGL and the results are not written;
after a sink error COUNT is by the word in `cmd`; unsafe. -/
def execHdrStored (bfinal : Bool) (s : State) : Out :=
  .next <|
    if s.upc = Upc.faulted then s
    else
      match s.readBlock with
      | none => s.enterFault .outOfRegion
      | some data => s.emit (stored s.cb s.cbn bfinal data) State.clearCarry

/-- CL_LEN (R101, R188): the symbol's code, no extra bits. -/
def execClLen (value : BitVec 4) (s : State) : Out :=
  .next (s.writeFields (tokenFields s.work.clRev s.work.clLen value.toNat 0 0) s.upc)

/-- CL_REP16 (R101, R188): the code of symbol 16, then 2 extra bits. -/
def execClRep16 (extra : BitVec 2) (s : State) : Out :=
  .next (s.writeFields (tokenFields s.work.clRev s.work.clLen 16 extra.toNat 2) s.upc)

/-- CL_REP17 (R101, R188): the code of symbol 17, then 3 extra bits. -/
def execClRep17 (extra : BitVec 3) (s : State) : Out :=
  .next (s.writeFields (tokenFields s.work.clRev s.work.clLen 17 extra.toNat 3) s.upc)

/-- CL_REP18 (R101, R188): the code of symbol 18, then 7 extra bits. -/
def execClRep18 (extra : BitVec 7) (s : State) : Out :=
  .next (s.writeFields (tokenFields s.work.clRev s.work.clLen 18 extra.toNat 7) s.upc)

/-- PACKED_ENTRY (R96, R143): `(len << 15) | code` written over the entry of the symbol in hand, and the next symbol is in hand;
past the last entry it is an access outside the tables. DESIGN CHOICE (log 15): the symbol in hand is `ci`; unsafe.
DESIGN CHOICE (log 42): a code that is not below 2^len, which R96's entries never have, is written as it stands; unsafe. -/
def execPackedEntry (len : BitVec 4) (code : BitVec 15) (s : State) : Out :=
  .next <|
    let v := packedEntry len.toNat code.toNat
    let i := s.ci.toNat
    if i < nLL then
      { (s.setCur { s.cur with histLL := s.cur.histLL.setEntry i v }) with ci := BitVec.ofNat 9 (i + 1) }
    else if i < nLL + nD then
      { (s.setCur { s.cur with histD := s.cur.histD.setEntry (i - nLL) v }) with ci := BitVec.ofNat 9 (i + 1) }
    else s.enterFault .outOfRegion

end Sys2Proof.Machine
end

