-- ==== Sys2Proof/Machine/Dispatch.lean ====
section
/-! DEFINITION. The dispatch: one arm per constructor of Instr, each one direct call of its meaning. -/

namespace Sys2Proof.Machine

def exec (i : Instr) (s : State) : Host.Outcome State Fault Refusal :=
  match i with
  | .reset => Sys2Proof.Machine.execReset s
  | .writeBlock final len => Sys2Proof.Machine.execWriteBlock final len s
  | .close => Sys2Proof.Machine.execClose s
  | .readAll => Sys2Proof.Machine.execReadAll s
  | .idle => Sys2Proof.Machine.execIdle s
  | .check => Sys2Proof.Machine.execCheck s
  | .s1Select => Sys2Proof.Machine.execS1Select s
  | .s2Stat => Sys2Proof.Machine.execS2Stat s
  | .s3Eob => Sys2Proof.Machine.execS3Eob s
  | .s3HgenLl => Sys2Proof.Machine.execS3HgenLl s
  | .s3HgenD => Sys2Proof.Machine.execS3HgenD s
  | .s3CanonLl => Sys2Proof.Machine.execS3CanonLl s
  | .s3CanonD => Sys2Proof.Machine.execS3CanonD s
  | .s4Tokenize => Sys2Proof.Machine.execS4Tokenize s
  | .s4HgenCl => Sys2Proof.Machine.execS4HgenCl s
  | .s4CanonCl => Sys2Proof.Machine.execS4CanonCl s
  | .s4Prefix => Sys2Proof.Machine.execS4Prefix s
  | .s4Blkhdr => Sys2Proof.Machine.execS4Blkhdr s
  | .s4Counts => Sys2Proof.Machine.execS4Counts s
  | .s4Cllens => Sys2Proof.Machine.execS4Cllens s
  | .s4Seq => Sys2Proof.Machine.execS4Seq s
  | .s4Flush => Sys2Proof.Machine.execS4Flush s
  | .s5Encode => Sys2Proof.Machine.execS5Encode s
  | .s6Interpret => Sys2Proof.Machine.execS6Interpret s
  | .s6EmitCarry => Sys2Proof.Machine.execS6EmitCarry s
  | .s6EmitAll => Sys2Proof.Machine.execS6EmitAll s
  | .s6Stored => Sys2Proof.Machine.execS6Stored s
  | .s6Fatal => Sys2Proof.Machine.execS6Fatal s
  | .s7Update => Sys2Proof.Machine.execS7Update s
  | .zStored => Sys2Proof.Machine.execZStored s
  | .xReset => Sys2Proof.Machine.execXReset s
  | .xClose => Sys2Proof.Machine.execXClose s
  | .xReadall => Sys2Proof.Machine.execXReadall s
  | .faulted => Sys2Proof.Machine.execFaulted s
  | .hdrDynamic bfinal => Sys2Proof.Machine.execHdrDynamic bfinal s
  | .hdrStored bfinal => Sys2Proof.Machine.execHdrStored bfinal s
  | .clLen value => Sys2Proof.Machine.execClLen value s
  | .clRep16 extra => Sys2Proof.Machine.execClRep16 extra s
  | .clRep17 extra => Sys2Proof.Machine.execClRep17 extra s
  | .clRep18 extra => Sys2Proof.Machine.execClRep18 extra s
  | .packedEntry len code => Sys2Proof.Machine.execPackedEntry len code s

end Sys2Proof.Machine
end

