-- ==== Sys2Proof/Machine/Fetch.lean ====
section
/-! DEFINITION. Which instruction a step runs. The DFE fetches no instructions from memory (spec/10_state.md rule R30,
spec/20_memory.md rule R63): UPC names the micro-operation; at IDLE a legal command word that the host writes is the command
(spec/60_exceptions.md rule R350). A wire item handed to the emitter by itself comes first, whatever UPC is (log 14). -/

namespace Sys2Proof.Machine

/-- What the fetch finds. -/
inductive Fetched where
  /-- This instruction runs, in this state. -/
  | run (i : Instr) (s : State)
  /-- UPC holds a value that the table does not hold. -/
  | noMicroOp
  /-- The word handed to the emitter is no wire item of the DFE. -/
  | noWireItem

/-- The micro-operation that UPC names. -/
def fetchUpc (s : State) : Fetched :=
  match decodeUpc s.upc with
  | .ok i => .run i s
  | .error _ => .noMicroOp

/-- The command that the host writes at IDLE, its word taken from the script; an illegal word (spec/30_encoding.md rule R94) is
no instruction, it is taken by IDLE and refused by CHECK. -/
def fetchCommand (s : State) : Option (Instr × State) :=
  if s.upc = Upc.idle then
    match s.script with
    | .csrWrite 0 w :: q => (accepted (decodeCommand w)).map fun i => (i, { s with script := q })
    | _ => none
  else none

/-- A stand-alone wire item: the formats that the DFE emits (spec/30_encoding.md rule R110). -/
def decodeWire (w : WireWord) : Option Instr :=
  match w.fmt with
  | .blkhdr3 => accepted (decode .blkhdr3 w.bits)
  | .clsym => accepted (decode .clsym w.bits)
  | .packed32 => accepted (decode .packed32 w.bits)
  | .s => none
  | .upc => none

/-- The instruction that the next step runs. -/
def fetch (s : State) : Fetched :=
  match s.wire with
  | some w =>
    match decodeWire w with
    | some i => .run i { s with wire := none }
    | none => .noWireItem
  | none =>
    match fetchCommand s with
    | some (i, s') => .run i s'
    | none => fetchUpc s

/-- A table row's word stored where the next step fetches it (log 10, log 13): a command is the host's next write to CMD at
IDLE, a value of UPC is UPC, a wire item is handed to the emitter. At IDLE itself the host has nothing to do. -/
def placeWord (s : State) (nbits w : Nat) : State :=
  match tableFormat nbits w with
  | .s => { s with wire := none, upc := Upc.idle, script := .csrWrite 0 (BitVec.ofNat 32 w) :: s.script }
  | .upc =>
    { s with
      wire := none
      upc := BitVec.ofNat 8 w
      script := if w = 0 then [] else s.script }
  | .blkhdr3 => { s with wire := some ⟨.blkhdr3, BitVec.ofNat 32 w⟩ }
  | .clsym => { s with wire := some ⟨.clsym, BitVec.ofNat 32 w⟩ }
  | .packed32 => { s with wire := some ⟨.packed32, BitVec.ofNat 32 w⟩ }

end Sys2Proof.Machine
end

