-- ==== Sys2Proof/Machine/Accelerator.lean ====
section
/-! DEFINITION. The assumptions AS1 to AS7 on the accelerator's answers (spec/43_accelerator_interface.md rule R270), as named
hypotheses: no step assumes them, a claim that needs one says so. AS5 is built into `State.afterJob` (log 7), AS6 is that the
queue of answers is not empty when a job is submitted (log 6). -/

namespace Sys2Proof.Machine

/-! ### Items of a parse, and the symbols and extra bits that stand for them -/

/-- The least length of each length symbol 257 to 285, and how many extra bits the symbol has.
PRESUMED (log 39): the table of RFC 1951, of which the spec gives the ends (spec/00_scope.md rule R19, GK7); unsafe. -/
def lengthTable : List (Nat × Nat) :=
  [(3, 0), (4, 0), (5, 0), (6, 0), (7, 0), (8, 0), (9, 0), (10, 0), (11, 1), (13, 1), (15, 1), (17, 1), (19, 2), (23, 2),
    (27, 2), (31, 2), (35, 3), (43, 3), (51, 3), (59, 3), (67, 4), (83, 4), (99, 4), (115, 4), (131, 5), (163, 5), (195, 5),
    (227, 5), (258, 0)]

/-- The least distance of each distance symbol 0 to 29, and how many extra bits the symbol has.
PRESUMED (log 39): the table of RFC 1951, of which the spec gives symbol 23, 3073 to 4096 (R273); unsafe. -/
def distanceTable : List (Nat × Nat) :=
  [(1, 0), (2, 0), (3, 0), (4, 0), (5, 1), (7, 1), (9, 2), (13, 2), (17, 3), (25, 3), (33, 4), (49, 4), (65, 5), (97, 5),
    (129, 6), (193, 6), (257, 7), (385, 7), (513, 8), (769, 8), (1025, 9), (1537, 9), (2049, 10), (3073, 10), (4097, 11),
    (6145, 11), (8193, 12), (12289, 12), (16385, 13), (24577, 13)]

/-- The row of a table that a value falls under: the last one whose least value it reaches. -/
def tableRow (table : List (Nat × Nat)) (v : Nat) : Nat := (table.takeWhile fun r => decide (r.1 ≤ v)).length - 1

/-- The extra bits that tell a value from the least of its row, least significant first (spec/00_scope.md rule R12). -/
def extraBitsOf (table : List (Nat × Nat)) (v : Nat) : List Bool :=
  let r := table.getD (tableRow table v) (0, 0)
  (List.range r.2).map fun k => (v - r.1).testBit k

/-- One item of a parse of a block: a literal byte, or a copy of `len` bytes from `dist` bytes back (spec/00_scope.md rule R19). -/
inductive ParseItem where
  | lit (b : Byte)
  | copy (len dist : Nat)
deriving DecidableEq, Repr

/-- The ranges of AS1: lengths 3 to 258, distances at most 4096. -/
def ParseItem.inRange : ParseItem → Bool
  | .lit _ => true
  | .copy len dist => decide (3 ≤ len ∧ len ≤ 258 ∧ 1 ≤ dist ∧ dist ≤ 4096)

/-- Bytes repeated from a distance back, one at a time, so that a copy longer than its distance repeats bytes of its own.
PRESUMED (log 39): RFC 1951's meaning of a length and a distance; unsafe. -/
def copyBack (out : List Byte) (dist : Nat) : Nat → List Byte
  | 0 => out
  | n + 1 => copyBack (out ++ [out.getD (out.length - dist) 0]) dist n

/-- The bytes a parse stands for, after the bytes already out; a copy never reaches before the block (R272). -/
def expandParse (out : List Byte) : List ParseItem → Option (List Byte)
  | [] => some out
  | .lit b :: t => expandParse (out ++ [b]) t
  | .copy len dist :: t => if dist ≤ out.length then expandParse (copyBack out dist len) t else none

/-- The literal/length symbol of an item. -/
def ParseItem.llSym : ParseItem → Nat
  | .lit b => b.toNat
  | .copy len _ => 257 + tableRow lengthTable len

/-- The distance symbol of an item that has one. -/
def ParseItem.dSym : ParseItem → Option Nat
  | .lit _ => none
  | .copy _ dist => some (tableRow distanceTable dist)

/-! ### How a job ended (R262, R267) -/

/-- The job was submitted and its status is success. -/
def JobAnswer.succeeded (r : JobAnswer) (p : Params) : Prop := r.submitStatus = none ∧ r.cr.status = p.success

/-- The submission failed, or the job's status is neither success nor an overflow. -/
def JobAnswer.fatal (r : JobAnswer) (p : Params) : Prop :=
  r.submitStatus ≠ none ∨ (r.cr.status ≠ p.success ∧ (r.cr.status, r.cr.error) ∉ p.overflowSet)

/-! ### The assumptions -/

/-- A counter of an answer. -/
def counterOf (l : Option (List (BitVec 32))) (i : Nat) : Nat := ((l.getD []).getD i 0).toNat

/-- AS1: after a successful statistics job the counters are the symbol frequencies of a parse of the block, every other counter 0;
the end-of-block counter may be 0 or 1. -/
def AS1 (p : Params) (j : Job) (r : JobAnswer) (parse : List ParseItem) : Prop :=
  r.succeeded p →
    parse.all ParseItem.inRange = true ∧ expandParse [] parse = some j.input ∧
      (∀ i, i < nLL → i ≠ 256 → counterOf r.histLL i = (parse.map ParseItem.llSym).count i) ∧
      counterOf r.histLL 256 ≤ 1 ∧
      ∀ i, i < nD → counterOf r.histD i = (parse.filterMap ParseItem.dSym).count i

/-- The bits of a byte, first the least significant (spec/00_scope.md rule R12). -/
def byteBits (b : Byte) : List Bool := (List.range 8).map b.getLsbD

/-- The bits of a byte string in stream order (spec/00_scope.md rule R12). -/
def streamBits (bytes : List Byte) : List Bool := bytes.flatMap byteBits

/-- The first n bits of the header region (spec/41_header_bit_encoder.md rule R177). -/
def headerBits (hdr : Memory) (n : Nat) : List Bool := (List.range n).map fun k => (hdr.read (k / 8)).getLsbD (k % 8)

/-- The bits of a packed entry's code, the code's most significant bit first (spec/30_encoding.md rules R96, R97). -/
def codeBits (e : BitVec 32) : List Bool :=
  (List.range (e.toNat / 2 ^ 15)).map fun k => e.toNat.testBit (e.toNat / 2 ^ 15 - 1 - k)

/-- The bits of an item coded with the tables of an AECS instance: its symbol, and for a copy the extra bits of the length, the
distance symbol and the extra bits of the distance. -/
def ParseItem.bits (a : Aecs) : ParseItem → List Bool
  | .lit b => codeBits (a.histLL.entry b.toNat)
  | .copy len dist =>
    codeBits (a.histLL.entry (257 + tableRow lengthTable len)) ++ extraBitsOf lengthTable len
      ++ codeBits (a.histD.entry (tableRow distanceTable dist)) ++ extraBitsOf distanceTable dist

/-- The bytes that an encode job produced, as OUT holds them: OUT[0 .. CR.produced-1] (R265), a byte that the answer's list does not
reach being 0, as `jobOutput` writes it (log 36). -/
def JobAnswer.producedBytes (r : JobAnswer) : List Byte := padded r.cr.produced.toNat r.out

/-- The bits that an encode job produced: every bit of its bytes but the unused ones of the last byte (R266). -/
def producedBits (r : JobAnswer) : List Bool :=
  (streamBits r.producedBytes).take
    (8 * r.cr.produced.toNat - (if r.cr.bitrem = 0 then 0 else 8 - r.cr.bitrem.toNat))

/-- AS2: a successful encode job's output begins with the HDRBITS bits of HDR in order; after them come only symbols coded with the
supplied tables, ending with the end-of-block code; for a final block the format terminator follows. -/
def AS2 (p : Params) (a : Aecs) (j : Job) (r : JobAnswer) (sent : List ParseItem) (terminator : List Bool) : Prop :=
  r.succeeded p →
    producedBits r =
        headerBits a.hdr a.hdrBits.toNat ++ sent.flatMap (ParseItem.bits a) ++ codeBits (a.histLL.entry 256) ++ terminator ∧
      sent.all ParseItem.inRange = true ∧
      (j.final = false → terminator = [])

/-- AS3: a successful encode job produced at least one byte and at most its capacity; where it reports a remainder the last
byte's unused bits are 0. -/
def AS3 (p : Params) (j : Job) (r : JobAnswer) : Prop :=
  r.succeeded p →
    1 ≤ r.cr.produced.toNat ∧ r.cr.produced.toNat ≤ j.outCap ∧
      (r.cr.bitrem ≠ 0 →
        ∀ k, r.cr.bitrem.toNat ≤ k → k < 8 → (r.producedBytes.getD (r.cr.produced.toNat - 1) 0).getLsbD k = false)

/-- AS4: a successful encode job's checksum is the seed continued over its input, and it consumed all of it. -/
def AS4 (p : Params) (j : Job) (r : JobAnswer) : Prop :=
  r.succeeded p → r.cr.crc = crc32upd j.crcSeed j.input ∧ r.cr.consumed.toNat = j.input.length

/-- AS5: a job writes nothing but CR, its AECS instance and, for an encode job, OUT: IN, the other AECS instance, every register of
the DFE and every other field of the state are as they were. (The descriptor is what the DFE handed over, and that the submission
failed is the model's own record of it.) -/
def AS5 (j : Job) (before after : State) : Prop :=
  after =
      { before.setAecs j.aecs (after.aecs j.aecs) with
        cr := after.cr, out := after.out, submitFailed := after.submitFailed, desc := some j } ∧
    (j.kind = .stat → after.out = before.out)

/-- AS6: every job ends: an answer of the device maximum and a completion record are there. -/
def AS6 (s : State) : Prop := s.xferQ ≠ [] ∧ s.jobQ ≠ []

/-- A symbol has a code in a table: the length of its entry is not 0. -/
def hasCode (m : Memory) (i : Nat) : Prop := (m.entry i).toNat / 2 ^ 15 ≠ 0

/-- AS7: the encode job parses the block as the statistics job did, so that every symbol it emits, the end-of-block symbol too, has
a code; otherwise it reports a fatal status. -/
def AS7 (p : Params) (a : Aecs) (r : JobAnswer) (parse sent : List ParseItem) : Prop :=
  (sent = parse ∧ hasCode a.histLL 256 ∧ (∀ i ∈ sent, hasCode a.histLL i.llSym) ∧
      ∀ i ∈ sent, ∀ d, i.dSym = some d → hasCode a.histD d) ∨
    r.fatal p

end Sys2Proof.Machine
end

