-- ==== Sys2Proof/Machine/Invariants.lean ====
section
/-! DEFINITION. The invariants of the machine, as predicates on one state: the canonical form of the memories, the accumulator
(spec/41_header_bit_encoder.md rule R176), the Carried Bits (spec/10_state.md rule R24), and what holds of the flags at each value
of UPC (spec/42_block_compressor.md rules R211, R229, R243). -/

namespace Sys2Proof.Machine

/-- The memories of one AECS instance are in canonical form. -/
def Aecs.canonical (a : Aecs) : Bool := a.histLL.wf && a.histD.wf && a.hdr.wf

/-- Every memory is in canonical form. -/
def State.memoryInv (s : State) : Prop :=
  s.inMem.wf = true ∧ s.out.wf = true ∧ s.aecs0.canonical = true ∧ s.aecs1.canonical = true

/-- UPC is inside the part of step 4 that writes through the accumulator, past its first write (R176: 0x44 to 0x48, and the
value 0x43 before it). -/
def inHeaderPhase (u : BitVec 8) : Bool := decide (Upc.s4Prefix ≤ u) && decide (u ≤ Upc.s4Flush)

/-- The accumulator's relations (R176, first sentence). -/
def State.accumulatorFits (s : State) : Prop :=
  s.nb.toNat ≤ 47 ∧ s.acc.toNat < 2 ^ s.nb.toNat ∧ s.outp.toNat = 6 * (s.total.toNat / 48) ∧
    s.nb.toNat = s.total.toNat % 48 ∧ s.total.toNat ≤ hdrCapBits

/-- The accumulator is in its reset state (R176, second sentence; R373). -/
def State.accumulatorClear (s : State) : Prop := s.acc = 0 ∧ s.nb = 0 ∧ s.total = 0 ∧ s.outp = 0

/-- R176 whole; in the FAULT state the accumulator keeps what the abandoned micro-operation left (R373). No wire item is handed
to the emitter from outside (log 14). -/
def State.accumulatorInv (s : State) : Prop :=
  s.wire = none ∧ s.accumulatorFits ∧
    (inHeaderPhase s.upc = false → s.upc ≠ Upc.faulted → s.accumulatorClear)

/-- The Carried Bits' form (R24): `CB[6:CBN] = 0`. -/
def State.carryFits (s : State) : Prop := s.cb.toNat < 2 ^ s.cbn.toNat

/-- UPC is at a micro-operation of a block (R229). -/
def inBlock (u : BitVec 8) : Bool := decide (Upc.s1Select ≤ u) && decide (u ≤ Upc.zStored)

/-- The flags that CHECK has tested (R211): a device, no error latched, a sink, not closed. -/
def State.streamOpen (s : State) : Prop :=
  s.nodev = false ∧ s.err = false ∧ s.bound = true ∧ s.closed = false

/-- What holds of the stream at every value of UPC: UPC is a value of the table (R30), FAULT is 1 exactly in the FAULT state
(R340), a sink holds bytes only when bound, a running block has passed CHECK's tests and the final block has not gone out (R211),
at READ_ALL's loop head BF says whether it has (R242), the Carried Bits have their form (R24), and they never outlive or come from
a final block (R24, R243). -/
def State.streamInv (s : State) : Prop :=
  s.wire = none ∧
    (accepted (decodeUpc s.upc)).isSome = true ∧
    (s.fault = true ↔ s.upc = Upc.faulted) ∧
    (s.bound = false → s.sink = []) ∧
    (inBlock s.upc = true → s.streamOpen ∧ s.fin = false) ∧
    (s.upc = Upc.xReadall → s.streamOpen ∧ s.fin = s.work.bf) ∧
    s.carryFits ∧
    (s.fin = true → s.cbn = 0) ∧
    (s.upc = Upc.s6EmitCarry → s.work.bf = false) ∧
    (s.upc = Upc.s7Update → s.work.bf = true → s.cbn = 0)

/-- What the host can observe of a run, and what later blocks depend on: the sink, the result registers, the flags, the Carried
Bits, the checksum, the header's bit count and the sequencer's place. -/
structure Observed where
  sink : List Byte
  crc : BitVec 32
  cb : BitVec 7
  cbn : BitVec 3
  hb : BitVec 12
  tgl : Bool
  err : Bool
  fin : Bool
  closed : Bool
  fault : Bool
  upc : BitVec 8
  eclass : BitVec 4
  hwstatus : BitVec 8
  hwerr : BitVec 8
  count : BitVec 64
deriving DecidableEq, Repr

/-- The observed part of a state. -/
def State.observed (s : State) : Observed :=
  { sink := s.sink, crc := s.crc, cb := s.cb, cbn := s.cbn, hb := s.hb, tgl := s.tgl, err := s.err, fin := s.fin,
    closed := s.closed, fault := s.fault, upc := s.upc, eclass := s.eclass, hwstatus := s.hwstatus, hwerr := s.hwerr,
    count := s.count }

/-- Two states have the same inputs: the host, the device, the sink, the source and the bytes of IN, and the same parameters. -/
def State.sameInputs (s t : State) : Prop :=
  s.script = t.script ∧ s.xferQ = t.xferQ ∧ s.jobQ = t.jobQ ∧ s.sinkQ = t.sinkQ ∧ s.src = t.src ∧ s.inMem = t.inMem ∧
    s.par = t.par ∧ s.nodev = t.nodev ∧ s.wire = none ∧ t.wire = none

/-- The bits of the Carried Bits in stream order (R24). -/
def State.carriedBits (s : State) : List Bool := (List.range s.cbn.toNat).map s.cb.getLsbD

/-- The bits of the stream so far: the sink's, then the Carried Bits (R235). -/
def State.streamSoFar (s : State) : List Bool := streamBits s.sink ++ s.carriedBits

/-- The bits of a field, least significant first (spec/00_scope.md rule R12). -/
def fieldBits (f : Field) : List Bool := (List.range f.n).map f.bits.getLsbD

/-- The number of bits of fields. -/
def fieldsLength (fs : List Field) : Nat := (fs.map Field.n).sum

/-- The bytes the sink holds, counting a byte in hand for Carried Bits (R236, T2). -/
def State.bytesSoFar (s : State) : Nat := s.sink.length + (if s.cbn = 0 then 0 else 1)

/-- The sink takes the next append (spec/60_exceptions.md rule R336; log 21). -/
def State.sinkAccepts (s : State) : Bool :=
  match s.sinkQ with
  | .fail _ :: _ => false
  | _ => true

/-- The bits written since the last flush, in order (spec/41_header_bit_encoder.md rules R176, R177): the groups stored in HDR, then
the valid bits of ACC. -/
def State.bitsInHand (s : State) : List Bool :=
  headerBits s.cur.hdr (8 * s.outp.toNat) ++ (List.range s.nb.toNat).map s.acc.getLsbD

/-- The fields of the tokens in TOK, in order (spec/41_header_bit_encoder.md rule R188). -/
def State.seqFields (s : State) : List Field :=
  s.work.tok.flatMap fun t => tokenFields s.work.clRev s.work.clLen t.sym.toNat t.extra.toNat t.ebits.toNat

/-- The fields that an instruction writes through the accumulator, and UPC after it (spec/41_header_bit_encoder.md rules R180, R181,
R186 to R188; spec/30_encoding.md rules R98, R101); none for an instruction that writes none. -/
def State.fieldsOf (s : State) : Instr → Option (List Field × BitVec 8)
  | .s4Prefix => some ([field s.cb.toNat s.cbn.toNat], Upc.s4Blkhdr)
  | .s4Blkhdr => some ([field (if s.work.bf then 5 else 4) 3], Upc.s4Counts)
  | .s4Counts =>
    some
      ([field (s.work.nlit.toNat - 257) 5, field (s.work.ndist.toNat - 1) 5, field (s.work.nclen.toNat - 4) 4], Upc.s4Cllens)
  | .s4Cllens => some (cllenFields s.work.clLen s.work.nclen.toNat, Upc.s4Seq)
  | .s4Seq => some (s.seqFields, Upc.s4Flush)
  | .hdrDynamic b => some ([field (if b then 5 else 4) 3], s.upc)
  | .clLen v => some ([symbolField s.work.clRev s.work.clLen v.toNat], s.upc)
  | .clRep16 e => some ([symbolField s.work.clRev s.work.clLen 16, field e.toNat 2], s.upc)
  | .clRep17 e => some ([symbolField s.work.clRev s.work.clLen 17, field e.toNat 3], s.upc)
  | .clRep18 e => some ([symbolField s.work.clRev s.work.clLen 18, field e.toNat 7], s.upc)
  | _ => none

/-- The fields of a whole dynamic header, in order (spec/30_encoding.md rule R99, spec/41_header_bit_encoder.md rule R190). -/
def State.headerFields (s : State) : List Field :=
  [field s.cb.toNat s.cbn.toNat, field (bitNat s.work.bf) 1, field 2 2, field (s.work.nlit.toNat - 257) 5,
    field (s.work.ndist.toNat - 1) 5, field (s.work.nclen.toNat - 4) 4]
    ++ cllenFields s.work.clLen s.work.nclen.toNat ++ s.seqFields

/-- The canonical code of symbol i, in closed form (spec/40_huffman_generator.md rules R140, R141): the first code of its length and
the number of symbols of that length before it. -/
def canonicalCode (lens : List Nat) (i : Nat) : Nat :=
  if lens.getD i 0 = 0 then 0 else firstCode lens (lens.getD i 0) + (lens.take i).count (lens.getD i 0)

end Sys2Proof.Machine
end

