-- ==== Sys2Proof/Safety.lean ====
section
/-! DEFINITION. What counts as a safe run: the model does not stop, and the DFE is not in its fault state
(spec/60_exceptions.md rule R340). -/

namespace Sys2Proof

open Machine

/-- The step of a state has a next state: the model does not stop. -/
def Steps (s : State) : Prop := ∃ t, step s = .next t

/-- The state is safe: the DFE has met no internal invariant failure. -/
def Unfaulted (s : State) : Prop := s.fault = false ∧ s.upc ≠ Upc.faulted

/-- A run of k steps that does not stop and ends in a state with a property. -/
def RunsTo (k : Nat) (s : State) (p : State → Prop) : Prop := ∃ t, Host.Core.run core k s = .next t ∧ p t

/-- A command has ended (spec/70_reset_and_hazards.md rule R375): the sequencer is at IDLE or at FAULT. -/
def Ended (s : State) : Prop := s.upc = Upc.idle ∨ s.upc = Upc.faulted

end Sys2Proof
end

