-- ==== Sys2Proof/Certificates/Slice0/Obligations.lean ====
section
/-! DEFINITION. The statements for the provers. A rule R<n> is a numbered rule of spec/; a log is a row of notes/assumptions/. -/

open Sys2Proof Sys2Proof.Machine

/-! ### Encoding and decoding -/

/-- Decoding the word of a well-formed instruction gives the instruction back, every operand at every value (R91, R92, R30, R98,
R101, R96). The place of a token's extra bits in its word is the model's choice (log 14). -/
def Obligations.DecodeEncodeRoundTrip : Prop :=
  ∀ i : Instr, WellFormed i → decode (encode i).fmt (encode i).bits = .ok i

/-- R91, R92, R94, R111: a command word is legal when bits 15:5 are 0 and either OP is WRITE_BLOCK's or OP is one of the other
three and FINAL and LEN are 0; a legal word is exactly one command, whose encoding it is, and every other word is none. -/
def Obligations.CommandDecoderTotal : Prop :=
  ∀ w : Word,
    let legal :=
      cmdZero w = 0#11 ∧
        (cmdOp w = 2#4 ∨
          (cmdOp w = 1#4 ∨ cmdOp w = 3#4 ∨ cmdOp w = 4#4) ∧ cmdFinal w = false ∧ cmdLen w = 0#16)
    (¬ legal → ∃ e, decodeCommand w = .error e) ∧
      (legal →
        ∃ i, decodeCommand w = .ok i ∧ encode i = ⟨.s, w⟩ ∧
          (i = .reset ∨ i = .writeBlock (cmdFinal w) (cmdLen w) ∨ i = .close ∨ i = .readAll))

/-- Words written out from the spec's encodings (R108, R30, R98, R101, R147) decode to the instructions they stand for. -/
def Obligations.WrittenWordsDecode : Prop :=
  decode .s 0x00000001#32 = .ok .reset ∧
    decode .s 0x00400012#32 = .ok (.writeBlock true 64#16) ∧
    decode .s 0x80000002#32 = .ok (.writeBlock false 32768#16) ∧
    decode .s 0x00000022#32 = .error .reservedBits ∧
    decode .upc 0x6F#32 = .ok .s6Fatal ∧
    decode .blkhdr3 5#32 = .ok (.hdrDynamic true) ∧
    decode .blkhdr3 2#32 = .error .reservedBtype ∧
    decode .clsym 15#32 = .ok (.clLen 15#4) ∧
    decode .packed32 0x00018006#32 = .ok (.packedEntry 3#4 6#15)

/-- R30, R95: the values of UPC are the 30 values of the table, each names one micro-operation, and every other value names
none. -/
def Obligations.MicroOperationTable : Prop :=
  upcTable.length = 30 ∧ (upcTable.map Prod.fst).Nodup ∧ (upcTable.map Prod.snd).Nodup ∧
    ∀ u : BitVec 8,
      (∀ i, (u, i) ∈ upcTable → decodeUpc u = .ok i) ∧
        ((∀ i, (u, i) ∉ upcTable) → decodeUpc u = .error .reservedUpc)

/-! ### The step -/

/-- R30: where no wire item is handed over and the host does not write a legal command word at IDLE, the step runs the
micro-operation that UPC names, in that state. -/
def Obligations.StepRunsMicroOperation : Prop :=
  ∀ (s : State) (i : Instr),
    s.wire = none →
    (∀ w q, s.upc = Upc.idle → s.script = .csrWrite 0 w :: q → ∃ e, decodeCommand w = .error e) →
    decodeUpc s.upc = .ok i →
    step s = exec i s

/-- R350, R91: at IDLE the word that the host writes to CMD is a command, legal or not: it is held and CHECK is next; where it is
a legal word the step is that command's. -/
def Obligations.StepRunsCommand : Prop :=
  ∀ (s : State) (w : Word) (q : List HostAction),
    s.wire = none → s.upc = Upc.idle → s.script = .csrWrite 0 w :: q →
    step s = .next { s with script := q, cmd := w, upc := Upc.check } ∧
      ∀ i, decodeCommand w = .ok i → step s = exec i { s with script := q }

/-- The model's own (log 14): a wire item handed to the emitter is run before anything else; a word that is no item the DFE
emits is refused. -/
def Obligations.StepRunsWireItem : Prop :=
  ∀ (s : State) (w : WireWord),
    s.wire = some w →
    (∀ i, decodeWire w = some i → step s = exec i { s with wire := none }) ∧
      (decodeWire w = none → step s = .refused .wireReserved)

/-- Every instruction answers a next state in every state, and the step stops only where UPC holds no value of the table or a
reserved wire word is handed over (logs 14, 27). -/
def Obligations.EveryInstructionAnswers : Prop :=
  (∀ (i : Instr) (s : State), ∃ t, exec i s = .next t) ∧
    ∀ s : State,
      (∀ w, s.wire = some w → ∃ i, decodeWire w = some i) → (s.wire = none → ∃ i, decodeUpc s.upc = .ok i) →
      ∃ t, step s = .next t

/-! ### Commands and the host -/

/-- R350: a write of a command's word to CMD (RESET, WRITE_BLOCK, CLOSE, READ_ALL): at IDLE it is a command, CHECK is next; in the
FAULT state it is dropped; while BUSY the port does not take it, the host is held and the write stays its next action. -/
def Obligations.CommandWrite : Prop :=
  ∀ (i : Instr) (s : State),
    (i = .reset ∨ (∃ final len, i = .writeBlock final len) ∨ i = .close ∨ i = .readAll) →
    (s.upc = Upc.idle → exec i s = .next { s with cmd := (encode i).bits, upc := Upc.check }) ∧
      (s.upc = Upc.faulted → exec i s = .next s) ∧
      (s.upc ≠ Upc.idle → s.upc ≠ Upc.faulted →
        exec i s = .next { s with script := .csrWrite 0 (encode i).bits :: s.script })

/-- IDLE waits, and the host takes its turn (R350, R36, R68, R93): with nothing to do nothing changes; a write to CMD is a
command; a write to another offset is ignored; a Block of at most 32768 bytes goes into IN from offset 0 and every other byte of
IN stays; a source is attached. The list of the host's actions is the model's (log 10). -/
def Obligations.IdleTakesTheHostsTurn : Prop :=
  ∀ s : State, s.upc = Upc.idle →
    (s.script = [] → exec .idle s = .next s) ∧
      (∀ w q, s.script = .csrWrite 0 w :: q →
        exec .idle s = .next { s with script := q, cmd := w, upc := Upc.check }) ∧
      (∀ off w q, off ≠ 0 → s.script = .csrWrite off w :: q → exec .idle s = .next { s with script := q }) ∧
      (∀ bytes q, bytes.length ≤ 32768 → s.script = .loadIn bytes :: q →
        ∃ t, exec .idle s = .next t ∧ t = { s with script := q, inMem := t.inMem } ∧
          (s.memoryInv → t.inMem.readBytes 0 bytes.length = bytes) ∧
          ∀ a, bytes.length ≤ a → t.inMem.read a = s.inMem.read a) ∧
      ∀ src q, s.script = .attachSource src :: q → exec .idle s = .next { s with script := q, src := src }

/-- R340, R350: a fault sets FAULT and UPC and nothing else; in the fault state the sequencer stays (log 12) and a command written is
dropped, RESET included; over any run in which the host does not reset the hardware, FAULT and UPC stay, and so do the sink, the
result registers and every other register that is observed. -/
def Obligations.OnlyHardwareResetLeavesTheFaultState : Prop :=
  (∀ (s : State) (r : FaultReason), s.enterFault r = { s with fault := true, upc := 0xF0#8 }) ∧
    (∀ s : State, s.upc = Upc.faulted →
      (s.script = [] → exec .faulted s = .next s) ∧
        ∀ w q, s.script = .csrWrite 0 w :: q → exec .faulted s = .next { s with script := q }) ∧
    ∀ (s : State) (k : Nat),
      s.wire = none → s.fault = true → s.upc = Upc.faulted →
      (∀ ready, HostAction.hardwareReset ready ∉ s.script) →
      RunsTo k s fun t => t.fault = true ∧ t.upc = Upc.faulted ∧ t.observed = s.observed

/-- R370, R43 (middle column), R268: hardware reset, at IDLE or in the FAULT state. When it lands is the model's choice (log 26). -/
def Obligations.HardwareReset : Prop :=
  ∀ (s : State) (ready : Bool) (q : List HostAction),
    s.script = .hardwareReset ready :: q →
    ∃ t, exec .idle s = .next t ∧ exec .faulted s = .next t ∧
      t.acc = 0 ∧ t.nb = 0 ∧ t.total = 0 ∧ t.outp = 0 ∧ t.cb = 0 ∧ t.cbn = 0 ∧ t.hb = 0 ∧ t.crc = 0 ∧
      t.tgl = false ∧ t.err = false ∧ t.fin = false ∧ t.closed = false ∧ t.conv = false ∧ t.fault = false ∧
      t.nodev = !ready ∧ t.bound = false ∧ t.upc = 0x00#8 ∧
      t.eclass = 0 ∧ t.hwstatus = 0 ∧ t.hwerr = 0 ∧ t.count = 0 ∧ t.sink = [] ∧
      t.statusWord = if ready then 0x00000000#32 else 0x00000040#32

/-- R35, the column "reset": what the host reads of every register that has a reset value, after hardware reset with ready() true. -/
def Obligations.ResetRegistersRead : Prop :=
  csrRead State.reset 0x00 = 0 ∧ csrRead State.reset 0x04 = 0x00000000#32 ∧ csrRead State.reset 0x08 = 0x00000000#32 ∧
    csrRead State.reset 0x0C = 0 ∧ csrRead State.reset 0x10 = 0 ∧ csrRead State.reset 0x14 = 0x00000000#32 ∧
    csrRead State.reset 0x18 = 0 ∧ csrRead State.reset 0x1C = 0

/-- R35, R36, R29: every field of every register of the CSR space, and 0 at every other offset. While BUSY the spec leaves the value
read open (R36, U20): that it is the value of that moment is the model's choice (log 25). -/
def Obligations.RegistersRead : Prop :=
  ∀ s : State,
    (csrRead s 0x04).getLsbD 0 = (decide (s.upc ≠ 0x00#8) && decide (s.upc ≠ 0xF0#8)) ∧
      (csrRead s 0x04).getLsbD 1 = s.err ∧ (csrRead s 0x04).getLsbD 2 = s.fin ∧ (csrRead s 0x04).getLsbD 3 = s.fault ∧
      (csrRead s 0x04).getLsbD 4 = s.tgl ∧ (csrRead s 0x04).getLsbD 5 = s.closed ∧ (csrRead s 0x04).getLsbD 6 = s.nodev ∧
      (csrRead s 0x04).getLsbD 7 = s.bound ∧ (csrRead s 0x04).extractLsb' 8 8 = s.upc ∧
      (csrRead s 0x04).extractLsb' 16 16 = 0 ∧
      (csrRead s 0x08).extractLsb' 0 4 = s.eclass ∧ (csrRead s 0x08).extractLsb' 4 4 = 0 ∧
      (csrRead s 0x08).extractLsb' 8 8 = s.hwstatus ∧ (csrRead s 0x08).extractLsb' 16 8 = s.hwerr ∧
      (csrRead s 0x08).extractLsb' 24 8 = 0 ∧
      csrRead s 0x10 ++ csrRead s 0x0C = s.count ∧
      csrRead s 0x14 = s.crc ∧
      (csrRead s 0x18).extractLsb' 0 7 = s.cb ∧ (csrRead s 0x18).extractLsb' 7 1 = 0 ∧
      (csrRead s 0x18).extractLsb' 8 3 = s.cbn ∧ (csrRead s 0x18).extractLsb' 11 21 = 0 ∧
      (csrRead s 0x1C).extractLsb' 0 12 = s.hb ∧ (csrRead s 0x1C).extractLsb' 12 20 = 0 ∧
      csrRead s 0x20 = s.maxxfer ∧
      ∀ off, (off = 0 ∨ 0x20 < off ∨ off % 4 ≠ 0) → csrRead s off = 0

/-! ### CHECK and the commands' own micro-operations -/

/-- R211 whole: CHECK on WRITE_BLOCK and on an illegal word. The first test that fires ends the command and changes nothing but the
result registers; otherwise BF and N are set and the block starts. -/
def Obligations.CheckWriteBlock : Prop :=
  ∀ s : State,
    let refuse := fun c : BitVec 4 =>
      { s with eclass := c, hwstatus := 0, hwerr := 0, count := 0, upc := Upc.idle : State }
    ((∃ e, decodeCommand s.cmd = .error e) → exec .check s = .next (refuse 1)) ∧
      ∀ final len, decodeCommand s.cmd = .ok (.writeBlock final len) →
        exec .check s =
          .next
            (if s.nodev = true then refuse 1
            else if s.err = true then refuse 4
            else if s.bound = false ∨ s.closed = true ∨ s.fin = true then refuse 4
            else if len.toNat > 32768 then refuse 2
            else
              { s with
                work := { s.work with bf := final, n := len }
                upc := if len.toNat = 0 then Upc.zStored else Upc.s1Select })

/-- R241: CLOSE, its tests in their order (an illegal word is E_CONFIG whatever its OP), its effect, and that once CLOSED only
RESET is accepted. That the tests stand in CHECK and X.CLOSE has only the effect is the model's reading (log 20); that the sink is
released changes no field of the state, its bytes stay the host's and BOUND stays (log 21), and that the working arrays stay (log 43). -/
def Obligations.CloseCommand : Prop :=
  ∀ s : State,
    let refuse := fun c : BitVec 4 =>
      { s with eclass := c, hwstatus := 0, hwerr := 0, count := 0, upc := Upc.idle : State }
    ((∃ e, decodeCommand s.cmd = .error e) → exec .check s = .next (refuse 1)) ∧
      (decodeCommand s.cmd = .ok .close →
        exec .check s =
          .next
            (if s.nodev = true then refuse 1
            else if s.err = true then refuse 4
            else if s.bound = false ∨ s.closed = true then refuse 4
            else if s.fin = false then refuse 4
            else { s with upc := Upc.xClose })) ∧
      exec .xClose s =
        .next { s with closed := true, eclass := 0, hwstatus := 0, hwerr := 0, count := 0, upc := Upc.idle } ∧
      (s.closed = true → s.nodev = false → ∀ i, decodeCommand s.cmd = .ok i →
        exec .check s = .next (if i = .reset then { s with upc := Upc.xReset } else refuse 4))

/-- R240, R43 (last column), R371: RESET. The free content of the working arrays (log 32) is that of the next state itself; the
contents of AECS[0], AECS[1], OUT, CR and IN, and NODEV, FAULT and MAXXFER, are as they were, and so is the model's own symbol index
(log 15). -/
def Obligations.ResetCommand : Prop :=
  ∀ s : State,
    (decodeCommand s.cmd = .ok .reset →
        exec .check s =
          .next
            (if s.nodev = true then
              { s with eclass := 1, hwstatus := 0, hwerr := 0, count := 0, upc := Upc.idle }
            else { s with upc := Upc.xReset })) ∧
      ∃ t, exec .xReset s = .next t ∧
        t =
          { s with
            acc := 0, nb := 0, total := 0, outp := 0, cb := 0, cbn := 0, hb := 0, crc := 0, tgl := false
            err := false, fin := false, closed := false, conv := false, bound := true, upc := 0x00#8
            eclass := 0, hwstatus := 0, hwerr := 0, count := 0
            sink := [], released := if s.bound = true then s.sink :: s.released else s.released
            work := t.work, freeCtr := t.freeCtr }

/-- R242: READ_ALL's tests and its loop head. CHECK clears BF, N and the total. After the final block (BF = 1) the command ends;
32768 bytes with a byte after them go out as a non-final block; fewer bytes and the end go out as the final block, zero-length where
none is left; an error, also one read after 32768 bytes, ends the command with E_SRC and the bytes of the completed blocks. That
32768 bytes and the end are a non-final block, the zero-length final flush next, is the model's reading (log 17), that the loop's
end stands at its head too (log 18); a source that has reported nothing yet is waited for, and the byte that the one more read shows
stays in SRC (log 19). That the working arrays stay past the command's end is the model's (log 43). -/
def Obligations.ReadAllCommand : Prop :=
  ∀ s : State,
    let refuse := fun c : BitVec 4 =>
      { s with eclass := c, hwstatus := 0, hwerr := 0, count := 0, upc := Upc.idle : State }
    let held := s.src.bytes.take 32768
    let start := fun (final : Bool) (rest : Source) (u : BitVec 8) =>
      { s with
        inMem := s.inMem.writeBytes 0 held, src := rest
        work := { s.work with bf := final, n := BitVec.ofNat 16 held.length }, upc := u : State }
    (decodeCommand s.cmd = .ok .readAll →
        exec .check s =
          .next
            (if s.nodev = true then refuse 1
            else if s.err = true then refuse 4
            else if s.bound = false ∨ s.closed = true ∨ s.fin = true then refuse 4
            else { s with rtotal := 0, work := { s.work with bf := false, n := 0 }, upc := Upc.xReadall })) ∧
      (s.work.bf = true →
        exec .xReadall s =
          .next { s with eclass := 0, hwstatus := 0, hwerr := 0, count := s.rtotal, upc := Upc.idle }) ∧
      (s.work.bf = false → 32768 < s.src.bytes.length →
        exec .xReadall s = .next (start false { s.src with bytes := s.src.bytes.drop 32768 } Upc.s1Select)) ∧
      (s.work.bf = false → s.src.bytes.length = 32768 → s.src.status = .ended →
        exec .xReadall s = .next (start false ⟨[], .ended⟩ Upc.s1Select)) ∧
      (s.work.bf = false → s.src.bytes.length < 32768 → s.src.status = .ended →
        exec .xReadall s =
          .next (start true ⟨[], .ended⟩ (if s.src.bytes.length = 0 then Upc.zStored else Upc.s1Select))) ∧
      (s.work.bf = false → s.src.bytes.length ≤ 32768 → s.src.status = .failed →
        exec .xReadall s =
          .next
            { s with
              inMem := s.inMem.writeBytes 0 held, src := ⟨[], .failed⟩
              eclass := 7, hwstatus := 0, hwerr := 0, count := s.rtotal, upc := Upc.idle }) ∧
      (s.work.bf = false → s.src.bytes.length ≤ 32768 → s.src.status = .pending → exec .xReadall s = .next s)

/-- R333 whole: what a raise writes: the class, CR.status and CR.error for E_HW and 0 otherwise, COUNT (0, and in READ_ALL the
bytes of the completed blocks), ERR for E_HW and E_SINK alone, UPC; and nothing else. -/
def Obligations.RaiseRecords : Prop :=
  ∀ (s : State) (c : ErrClass),
    s.raiseBlock c =
      { s with
        eclass := c.code
        hwstatus := if c = .hw then s.cr.status else 0
        hwerr := if c = .hw then s.cr.error else 0
        count := if cmdOp s.cmd = 4#4 then s.rtotal else 0
        err := if c = .hw ∨ c = .sink then true else s.err
        upc := Upc.idle } ∧
      (c = .ok → c.code = 0) ∧ (c = .config → c.code = 1) ∧ (c = .size → c.code = 2) ∧ (c = .hw → c.code = 3) ∧
      (c = .state → c.code = 4) ∧ (c = .format → c.code = 5) ∧ (c = .sink → c.code = 6) ∧ (c = .src → c.code = 7)

/-! ### Steps 1 to 3 -/

/-- R213 whole: S1.SELECT resets the scratch fields of AECS[TGL] and CONV; its Histogram, its header region and the other instance
are not written. -/
def Obligations.SelectResetsScratch : Prop :=
  ∀ s : State,
    ∃ t, exec .s1Select s = .next t ∧
      t = { s.setCur { s.cur with scratch := s.par.scratchInit } with conv := false, upc := Upc.s2Stat } ∧
      t.cur.scratch = s.par.scratchInit ∧ t.cur.histLL = s.cur.histLL ∧ t.cur.histD = s.cur.histD ∧
      t.cur.hdr = s.cur.hdr ∧ t.cur.hdrBits = s.cur.hdrBits ∧ t.aecs (!s.tgl) = s.aecs (!s.tgl)

/-- R214, R264, R77, R74: the statistics job. Too small a device maximum ends the command with E_SIZE and submits nothing; a job
that succeeds leaves every counter of both tables overwritten and S3.EOB next; any other status is E_HW, ERR latched, and so is a
submission that failed, with its own status and error 0 (R262, log 38). Without an answer the DFE waits (log 6). A block longer than IN,
which CHECK excludes, is submitted like any other (log 45). -/
def Obligations.StatisticsJob : Prop :=
  ∀ s : State,
    let n := s.work.n.toNat
    (s.xferQ = [] ∨ (s.jobQ = [] ∧ ∃ m q, s.xferQ = m :: q ∧ n ≤ m) → exec .s2Stat s = .next s) ∧
      ∀ m q, s.xferQ = m :: q →
        (m < n →
          exec .s2Stat s =
            .next
              { s with
                xferQ := q, maxxfer := BitVec.ofNat 32 m, eclass := 2, hwstatus := 0, hwerr := 0
                count := if cmdOp s.cmd = 4#4 then s.rtotal else 0, upc := Upc.idle }) ∧
          (n ≤ m → ∀ r q', s.jobQ = r :: q' →
            ∃ t, exec .s2Stat s = .next t ∧
              (let cr := match r.submitStatus with
                | none => r.cr
                | some st => { r.cr with status := st, error := 0 }
              let u : State :=
                { s.setCur t.cur with
                  xferQ := q, maxxfer := BitVec.ofNat 32 m, jobQ := q', cr := cr, submitFailed := r.submitStatus.isSome
                  desc :=
                    some
                      { kind := .stat, input := s.inMem.readBytes 0 n, aecs := s.tgl, out := none, outCap := 0,
                        crcSeed := 0, final := false } }
              t =
                if r.submitStatus = none ∧ r.cr.status = s.par.success then { u with upc := Upc.s3Eob }
                else
                  { u with
                    err := true, eclass := 3, hwstatus := cr.status, hwerr := cr.error
                    count := if cmdOp s.cmd = 4#4 then s.rtotal else 0, upc := Upc.idle }) ∧
              (s.memoryInv →
                (∀ i, i < 286 → t.cur.histLL.entry i = (r.histLL.getD []).getD i 0) ∧
                  ∀ i, i < 30 → t.cur.histD.entry i = (r.histD.getD []).getD i 0))

/-- R215: S3.EOB makes the end-of-block symbol used: its counter is 1 where it was 0 and stays otherwise, no other byte of the
table and no register but UPC changes. -/
def Obligations.EndOfBlockSymbolIsUsed : Prop :=
  ∀ s : State,
    ∃ t, exec .s3Eob s = .next t ∧
      t = { s.setCur { s.cur with histLL := t.cur.histLL } with upc := Upc.s3HgenLl } ∧
      (s.memoryInv →
        t.cur.histLL.entry 256 = if s.cur.histLL.entry 256 = 0 then 1 else s.cur.histLL.entry 256) ∧
      ∀ a, a < 1024 ∨ 1028 ≤ a → t.cur.histLL.read a = s.cur.histLL.read a

/-- R148 whole, with R144 and R135: the three calls of HUFFLEN, each with its alphabet and its cap, the phantom distance code, no
flag written and no fault. -/
def Obligations.CodeLengthMicroOperations : Prop :=
  ∀ s : State,
    let phantom := fun l : List Nat => if ∀ x ∈ l, x = 0 then l.set 0 1 else l
    exec .s3HgenLl s =
        .next
          { s with
            work := { s.work with llLen := toArray 4 (hufflen s.par.huffChoices s.freqLL 15) }, upc := Upc.s3HgenD } ∧
      exec .s3HgenD s =
        .next
          { s with
            work := { s.work with dLen := toArray 4 (phantom (hufflen s.par.huffChoices s.freqD 15)) }
            upc := Upc.s3CanonLl } ∧
      exec .s4HgenCl s =
        .next
          { s with
            work := { s.work with clLen := toArray 3 (hufflen s.par.huffChoices (arrayNat 19 s.work.clFreq) 7) }
            upc := Upc.s4CanonCl }

/-- R131 to R136: HUFFLEN, for every instance of it: no code for an unused symbol, length 1 for a single used symbol, and for two
or more used symbols, at most 2^L of them, every length within the cap and Kraft equality. -/
def Obligations.HufflenMeetsContract : Prop :=
  ∀ (choices : List HuffChoice) (freq : List Nat) (L : Nat),
    (usedCount freq ≤ 1 → hufflen choices freq L = freq.map fun f => if f = 0 then 0 else 1) ∧
      (2 ≤ usedCount freq → usedCount freq ≤ 2 ^ L →
        (hufflen choices freq L).length = freq.length ∧
          (∀ i, i < freq.length → ((hufflen choices freq L).getD i 0 = 0 ↔ freq.getD i 0 = 0)) ∧
          (∀ l ∈ hufflen choices freq L, l ≤ L) ∧
          kraftSum L (hufflen choices freq L) = 2 ^ L)

/-- R216, R136, R144, R185: what the working arrays hold after the micro-operations: with two or more used symbols the lengths kept
in LLLEN, DLEN and CLLEN meet Kraft equality, none is cut by its array's width; with no used distance DLEN is the phantom code. -/
def Obligations.CodeLengthsAreComplete : Prop :=
  ∀ s t : State,
    (exec .s3HgenLl s = .next t → 2 ≤ usedCount s.freqLL → kraftSum 15 (arrayNat 286 t.work.llLen) = 2 ^ 15) ∧
      (exec .s3HgenD s = .next t → 2 ≤ usedCount s.freqD → kraftSum 15 (arrayNat 30 t.work.dLen) = 2 ^ 15) ∧
      (exec .s3HgenD s = .next t → usedCount s.freqD = 0 → arrayNat 30 t.work.dLen = 1 :: List.replicate 29 0) ∧
      (exec .s4HgenCl s = .next t → 2 ≤ usedCount (arrayNat 19 s.work.clFreq) →
        kraftSum 7 (arrayNat 19 t.work.clLen) = 2 ^ 7)

/-- R140, R141: under Kraft's inequality CANON succeeds, its codes are the canonical ones in closed form, and every code fits its
length. -/
def Obligations.CanonFitsUnderKraft : Prop :=
  ∀ (lens : List Nat) (L : Nat),
    (∀ l ∈ lens, l ≤ L) → kraftSum L lens ≤ 2 ^ L →
    ∃ r, canon lens L = some r ∧ r.codes = (List.range lens.length).map (canonicalCode lens) ∧
      ∀ i, i < lens.length → canonicalCode lens i < 2 ^ lens.getD i 0

/-- R103: a canonical code built from lengths that satisfy Kraft's inequality is a prefix code: no symbol's code, most significant
bit first, is a prefix of another's. -/
def Obligations.CanonIsPrefixFree : Prop :=
  ∀ (lens : List Nat) (L i j : Nat),
    (∀ l ∈ lens, l ≤ L) → kraftSum L lens ≤ 2 ^ L →
    i < lens.length → j < lens.length → i ≠ j →
    0 < lens.getD i 0 → lens.getD i 0 ≤ lens.getD j 0 →
    canonicalCode lens j / 2 ^ (lens.getD j 0 - lens.getD i 0) ≠ canonicalCode lens i

/-- R149, R143, R142: from lengths that satisfy Kraft's inequality, S3.CANON_LL and S3.CANON_D leave the packed code of every symbol
in place of its counter, in AECS[TGL] alone, and S4.CANON_CL leaves the reversed codes in CLREV and COUNTL and NEXT above its cap as
they were (R140); CONV is set by the second. -/
def Obligations.CanonicalTables : Prop :=
  ∀ s : State, s.memoryInv →
    (s.conv = false → kraftSum 15 (arrayNat 286 s.work.llLen) ≤ 2 ^ 15 →
        ∃ t, exec .s3CanonLl s = .next t ∧
          t =
            { s.setCur { s.cur with histLL := t.cur.histLL } with
              work := { s.work with countl := t.work.countl, next := t.work.next }, ci := t.ci, upc := Upc.s3CanonD } ∧
          (∀ i, i < 286 →
            (t.cur.histLL.entry i).toNat =
              (arrayNat 286 s.work.llLen).getD i 0 * 2 ^ 15 + canonicalCode (arrayNat 286 s.work.llLen) i) ∧
          ∀ a, 1144 ≤ a → t.cur.histLL.read a = s.cur.histLL.read a) ∧
      (kraftSum 15 (arrayNat 30 s.work.dLen) ≤ 2 ^ 15 →
        ∃ t, exec .s3CanonD s = .next t ∧
          t =
            { s.setCur { s.cur with histD := t.cur.histD } with
              work := { s.work with countl := t.work.countl, next := t.work.next }, ci := t.ci, conv := true
              upc := Upc.s4Tokenize } ∧
          (∀ i, i < 30 →
            (t.cur.histD.entry i).toNat =
              (arrayNat 30 s.work.dLen).getD i 0 * 2 ^ 15 + canonicalCode (arrayNat 30 s.work.dLen) i) ∧
          ∀ a, 120 ≤ a → t.cur.histD.read a = s.cur.histD.read a) ∧
      (kraftSum 7 (arrayNat 19 s.work.clLen) ≤ 2 ^ 7 →
        ∃ t, exec .s4CanonCl s = .next t ∧
          t =
            { s with
              work :=
                { s.work with
                  countl := t.work.countl, next := t.work.next, clRev := t.work.clRev, nclen := t.work.nclen }
              upc := Upc.s4Prefix } ∧
          (∀ l, 8 ≤ l → l < 16 →
            t.work.countl.getD l 0 = s.work.countl.getD l 0 ∧ t.work.next.getD l 0 = s.work.next.getD l 0) ∧
          ∀ i, i < 19 →
            (t.work.clRev.getD i 0).toNat =
              rev (canonicalCode (arrayNat 19 s.work.clLen) i) ((arrayNat 19 s.work.clLen).getD i 0))

/-- R33: S3.CANON_LL with CONV = 1 is the fault Reconversion: the Histogram is not converted twice. -/
def Obligations.ReconversionIsAFault : Prop :=
  ∀ s : State, s.conv = true → exec .s3CanonLl s = .next { s with fault := true, upc := 0xF0#8 }

/-- R96 whole: the fields of a packed entry. -/
def Obligations.PackedEntryFields : Prop :=
  ∀ len code : Nat, len ≤ 15 → code < 2 ^ len →
    (packedEntry len code).toNat = len * 2 ^ 15 + code ∧
      (packedEntry len code).extractLsb' 0 15 = BitVec.ofNat 15 code ∧
      (packedEntry len code).extractLsb' 15 4 = BitVec.ofNat 4 len ∧
      (packedEntry len code).extractLsb' 19 13 = 0 ∧
      (len = 0 → packedEntry len code = 0x00000000#32)

/-- R143, R96: a PACKED_ENTRY writes its word over the entry of the symbol in hand, in AECS[TGL] alone, every other byte of the
table as it was; past the last symbol it is an access outside the tables. Which symbol is in hand is the model's own (log 15), so is
that the item is an instruction of its own which leaves UPC as it is (log 14) and may fault (log 37), and that a code which is not
below 2^len, as R96's entries never have, is written as it stands (log 42). -/
def Obligations.PackedEntryWritesItsSymbol : Prop :=
  ∀ (s : State) (len : BitVec 4) (code : BitVec 15),
    let v := packedEntry len.toNat code.toNat
    let i := s.ci.toNat
    (i < 286 →
        ∃ t, exec (.packedEntry len code) s = .next t ∧
          t = { s.setCur { s.cur with histLL := t.cur.histLL } with ci := BitVec.ofNat 9 (i + 1) } ∧
          (s.memoryInv → t.cur.histLL.entry i = v) ∧
          ∀ a, a < 4 * i ∨ 4 * i + 4 ≤ a → t.cur.histLL.read a = s.cur.histLL.read a) ∧
      (286 ≤ i → i < 316 →
        ∃ t, exec (.packedEntry len code) s = .next t ∧
          t = { s.setCur { s.cur with histD := t.cur.histD } with ci := BitVec.ofNat 9 (i + 1) } ∧
          (s.memoryInv → t.cur.histD.entry (i - 286) = v) ∧
          ∀ a, a < 4 * (i - 286) ∨ 4 * (i - 286) + 4 ≤ a → t.cur.histD.read a = s.cur.histD.read a) ∧
      (316 ≤ i → exec (.packedEntry len code) s = .next { s with fault := true, upc := 0xF0#8 })

/-! ### Step 4 -/

/-- R182, R187: the counts are the fewest the format allows: the floors 257, 1 and 4, no used symbol beyond the count, and above the
floor a used symbol just below it. -/
def Obligations.CountsAreMinimal : Prop :=
  ∀ s t : State,
    (exec .s4Tokenize s = .next t →
        (257 ≤ t.work.nlit.toNat ∧ t.work.nlit.toNat ≤ 286 ∧
            (∀ i, t.work.nlit.toNat ≤ i → (arrayNat 286 s.work.llLen).getD i 0 = 0) ∧
            (t.work.nlit.toNat = 257 ∨ (arrayNat 286 s.work.llLen).getD (t.work.nlit.toNat - 1) 0 ≠ 0)) ∧
          1 ≤ t.work.ndist.toNat ∧ t.work.ndist.toNat ≤ 30 ∧
            (∀ i, t.work.ndist.toNat ≤ i → (arrayNat 30 s.work.dLen).getD i 0 = 0) ∧
            (t.work.ndist.toNat = 1 ∨ (arrayNat 30 s.work.dLen).getD (t.work.ndist.toNat - 1) 0 ≠ 0)) ∧
      (exec .s4CanonCl s = .next t → t.fault = false →
        4 ≤ t.work.nclen.toNat ∧ t.work.nclen.toNat ≤ 19 ∧
          (∀ k, t.work.nclen.toNat ≤ k → k < 19 → (arrayNat 19 s.work.clLen).getD (scan.getD k 0) 0 = 0) ∧
          (t.work.nclen.toNat = 4 ∨ (arrayNat 19 s.work.clLen).getD (scan.getD (t.work.nclen.toNat - 1) 0) 0 ≠ 0))

/-- R183, R184, R101: S4.TOKENIZE always goes on, and its tokens stand for the length sequence: a reader who expands them gets
LLLEN[0 .. NLIT-1] and DLEN[0 .. NDIST-1] back; a 16 is never first, every symbol has the extra bits of its width, CLFREQ counts
the symbols, and nothing but these working registers and UPC changes. -/
def Obligations.TokensExpandToTheLengths : Prop :=
  ∀ s : State,
    ∃ t, exec .s4Tokenize s = .next t ∧
      t =
        { s with
          work :=
            { s.work with nlit := t.work.nlit, ndist := t.work.ndist, tok := t.work.tok, clFreq := t.work.clFreq }
          upc := Upc.s4HgenCl } ∧
      expandTokens 0 t.work.tok =
        (arrayNat 286 s.work.llLen).take t.work.nlit.toNat ++ (arrayNat 30 s.work.dLen).take t.work.ndist.toNat ∧
      (∀ tok ∈ t.work.tok.head?, tok.sym ≠ 16) ∧
      (∀ tok ∈ t.work.tok,
        tok.sym.toNat ≤ 18 ∧
          tok.ebits.toNat = (if tok.sym = 16 then 2 else if tok.sym = 17 then 3 else if tok.sym = 18 then 7 else 0) ∧
          tok.extra.toNat < 2 ^ tok.ebits.toNat) ∧
      arrayNat 19 t.work.clFreq = (List.range 19).map fun k => t.work.tok.countP fun tok => tok.sym.toNat = k

/-- R172, R180, R181, R186 to R188, R176: what S4.PREFIX, S4.BLKHDR, S4.COUNTS, S4.CLLENS, S4.SEQ and the wire items HDR_DYNAMIC,
CL_LEN, CL_REP16, CL_REP17 and CL_REP18 do while the cap allows: exactly their fields are appended, bit by bit, to the bits written
since the last flush; the accumulator keeps its relations; bytes of HDR outside the groups stored, the other registers and the
other instance stay. That the five items are instructions of their own and leave UPC as it is, is the model's choice (log 14, log 37),
and that a symbol without a code sends no code bits (log 41) and a count below its floor counts as the floor (log 47). -/
def Obligations.HeaderWritesAppendTheirFields : Prop :=
  ∀ (s : State) (i : Instr) (fs : List Field) (u : BitVec 8),
    s.fieldsOf i = some (fs, u) → s.memoryInv → s.accumulatorFits → s.total.toNat + fieldsLength fs ≤ 2048 →
    ∃ t, exec i s = .next t ∧
      t =
        { s.setCur { s.cur with hdr := t.cur.hdr } with
          acc := t.acc, nb := t.nb, total := t.total, outp := t.outp, upc := u } ∧
      t.accumulatorFits ∧ t.total.toNat = s.total.toNat + fieldsLength fs ∧
      t.bitsInHand = s.bitsInHand ++ fs.flatMap fieldBits ∧
      ∀ a, a < s.outp.toNat ∨ t.outp.toNat ≤ a → t.cur.hdr.read a = s.cur.hdr.read a

/-- R175: a write that would take TOTAL above 2048 is the fault HeaderCap: FAULT state, no result, nothing more in the sink, and
HDR is never written beyond byte 255. That the wire items as instructions of their own fault likewise is the model's (log 14, log 37);
what was written before the fault stands (log 28); fields of values that the sequence never has are log 47's. -/
def Obligations.HeaderCapIsAFault : Prop :=
  ∀ (s : State) (i : Instr) (fs : List Field) (u : BitVec 8),
    s.fieldsOf i = some (fs, u) → s.accumulatorFits → 2048 < s.total.toNat + fieldsLength fs →
    ∃ t, exec i s = .next t ∧
      t =
        { s.setCur { s.cur with hdr := t.cur.hdr } with
          acc := t.acc, nb := t.nb, total := t.total, outp := t.outp, fault := true, upc := 0xF0#8 } ∧
      t.total.toNat ≤ 2048 ∧
      ∀ a, a < s.outp.toNat ∨ 256 ≤ a → t.cur.hdr.read a = s.cur.hdr.read a

/-- R174, R189, R177: S4.FLUSH stores the remaining bits, records their number in HB and in HDRBITS, resets the accumulator; the
region then holds exactly the bits written, zero-padded to a byte, and no other byte of it changes. -/
def Obligations.FlushRecordsTheHeader : Prop :=
  ∀ s : State, s.memoryInv → s.accumulatorFits →
    ∃ t, exec .s4Flush s = .next t ∧
      t =
        { s.setCur { s.cur with hdr := t.cur.hdr, hdrBits := s.total } with
          acc := 0, nb := 0, total := 0, outp := 0, hb := s.total, upc := Upc.s5Encode } ∧
      headerBits t.cur.hdr s.total.toNat = s.bitsInHand ∧
      (∀ k, s.total.toNat ≤ k → k < 8 * ceilDiv8 s.total.toNat → (t.cur.hdr.read (k / 8)).getLsbD (k % 8) = false) ∧
      ∀ a, a < s.outp.toNat ∨ ceilDiv8 s.total.toNat ≤ a → t.cur.hdr.read a = s.cur.hdr.read a

/-- R190, R99: from S4.PREFIX with the accumulator clear, six steps lead to S5.ENCODE and leave the whole header in HDR: the carried
bits, BFINAL, BTYPE 0b10, HLIT, HDIST, HCLEN, the code-length code lengths and the tokens, in this order, HB bits in all. (Counts below
their floors, which S4.TOKENIZE and S4.CANON_CL never leave: log 47.) -/
def Obligations.WholeHeader : Prop :=
  ∀ s : State,
    s.wire = none → s.upc = Upc.s4Prefix → s.memoryInv → s.accumulatorClear → s.work.nclen.toNat ≤ 19 →
    fieldsLength s.headerFields ≤ 2048 →
    fieldsLength s.headerFields = s.cbn.toNat + 3 + 14 + 3 * s.work.nclen.toNat + fieldsLength s.seqFields ∧
      RunsTo 6 s fun t =>
        t.upc = Upc.s5Encode ∧ t.hb.toNat = fieldsLength s.headerFields ∧ t.cur.hdrBits = t.hb ∧
          headerBits t.cur.hdr t.hb.toNat = s.headerFields.flatMap fieldBits ∧
          t.cb = s.cb ∧ t.cbn = s.cbn ∧ t.sink = s.sink ∧ t.crc = s.crc ∧ t.tgl = s.tgl ∧
          t.cur.histLL = s.cur.histLL ∧ t.cur.histD = s.cur.histD ∧ t.aecs (!s.tgl) = s.aecs (!s.tgl)

/-! ### Steps 5 to 7 and the zero-length block -/

/-- R220, R263, R265, R74: the encode job: the transfer tests, the descriptor with the running checksum as its seed, the completion
record and the bytes in OUT. A submission that failed is recorded with its own status and error 0 (R262, log 38). Without an answer
the DFE waits (log 6). A block longer than IN, which CHECK excludes, is submitted like any other (log 45). -/
def Obligations.EncodeJob : Prop :=
  ∀ s : State,
    let n := s.work.n.toNat
    (s.xferQ = [] ∨ (s.jobQ = [] ∧ ∃ m q, s.xferQ = m :: q ∧ n ≤ m ∧ s.par.outCap ≤ m) → exec .s5Encode s = .next s) ∧
      ∀ m q, s.xferQ = m :: q →
        (m < n ∨ m < s.par.outCap →
          exec .s5Encode s =
            .next
              { s with
                xferQ := q, maxxfer := BitVec.ofNat 32 m, eclass := 2, hwstatus := 0, hwerr := 0
                count := if cmdOp s.cmd = 4#4 then s.rtotal else 0, upc := Upc.idle }) ∧
          (n ≤ m → s.par.outCap ≤ m → ∀ r q', s.jobQ = r :: q' →
            ∃ t, exec .s5Encode s = .next t ∧
              t =
                { s.setCur t.cur with
                  xferQ := q, maxxfer := BitVec.ofNat 32 m, jobQ := q', out := t.out
                  cr := (match r.submitStatus with
                    | none => r.cr
                    | some st => { r.cr with status := st, error := 0 })
                  submitFailed := r.submitStatus.isSome
                  desc :=
                    some
                      { kind := .encode, input := s.inMem.readBytes 0 n, aecs := s.tgl, out := some .out,
                        outCap := s.par.outCap, crcSeed := s.crc, final := s.work.bf }
                  upc := Upc.s6Interpret } ∧
              (s.memoryInv → r.cr.produced.toNat ≤ s.par.outCap →
                ∀ k, k < r.cr.produced.toNat → t.out.read k = r.out.getD k 0) ∧
              ∀ a, s.par.outCap ≤ a → t.out.read a = s.out.read a)

/-- R221 whole, with R222: the classification of the completion record; after a submission that failed it is fatal, whatever the
status, and never an overflow (R262, log 38). -/
def Obligations.InterpretCompletion : Prop :=
  ∀ s : State,
    exec .s6Interpret s =
      .next
        (if s.submitFailed = true then { s with upc := Upc.s6Fatal }
        else if s.cr.status = s.par.success then
          if s.cr.produced.toNat > s.work.n.toNat + 5 then
            { s with work := { s.work with path := .stored }, upc := Upc.s6Stored }
          else if s.work.bf = false ∧ s.cr.bitrem ≠ 0 then
            { s with work := { s.work with path := .compressed }, upc := Upc.s6EmitCarry }
          else { s with work := { s.work with path := .compressed }, upc := Upc.s6EmitAll }
        else if (s.cr.status, s.cr.error) ∈ s.par.overflowSet then
          { s with work := { s.work with path := .stored }, upc := Upc.s6Stored }
        else { s with upc := Upc.s6Fatal })

/-- R223 whole: a sink that takes the bytes gets all but the last produced byte, whose valid bits are the new Carried Bits; a
remainder with no byte to hold it is the fault BadCompletion.
With `CR.bitrem = 0`, which S6.INTERPRET never sends here, none is held (log 47). -/
def Obligations.EmitCarry : Prop :=
  ∀ s : State,
    let p := s.cr.produced.toNat
    (p = 0 → exec .s6EmitCarry s = .next { s with fault := true, upc := 0xF0#8 }) ∧
      (1 ≤ p → p ≤ s.par.outCap → s.sinkAccepts = true →
        exec .s6EmitCarry s =
          .next
            { s with
              sink := s.sink ++ s.out.readBytes 0 (p - 1), sinkQ := s.sinkQ.tail
              cb := BitVec.ofNat 7 ((s.out.read (p - 1)).toNat % 2 ^ s.cr.bitrem.toNat), cbn := s.cr.bitrem
              upc := Upc.s7Update })

/-- R224 whole: a sink that takes the bytes gets every produced byte; the Carried Bits are cleared. -/
def Obligations.EmitAll : Prop :=
  ∀ s : State, s.cr.produced.toNat ≤ s.par.outCap → s.sinkAccepts = true →
    exec .s6EmitAll s =
      .next
        { s with
          sink := s.sink ++ s.out.readBytes 0 s.cr.produced.toNat, sinkQ := s.sinkQ.tail, cb := 0, cbn := 0
          upc := Upc.s7Update }

/-- R225, R232: the fallback, and a stand-alone HDR_STORED (logs 14, 16): the block goes out verbatim, the Carried Bits of before it merged
under its header, and they are cleared. In the FAULT state nothing more reaches the sink (R340): HDR_STORED is dropped; in every other
state it goes out, whatever the flags say (log 46). -/
def Obligations.StoredFallback : Prop :=
  ∀ s : State, s.work.n.toNat ≤ 32768 → s.sinkAccepts = true →
    exec .s6Stored s =
        .next
          { s with
            sink := s.sink ++ stored s.cb s.cbn s.work.bf (s.inMem.readBytes 0 s.work.n.toNat), sinkQ := s.sinkQ.tail
            cb := 0, cbn := 0, upc := Upc.s7Update } ∧
      ∀ b : Bool,
        exec (.hdrStored b) s =
          .next
            (if s.upc = Upc.faulted then s
            else
              { s with
                sink := s.sink ++ stored s.cb s.cbn b (s.inMem.readBytes 0 s.work.n.toNat), sinkQ := s.sinkQ.tail
                cb := 0, cbn := 0 })

/-- R230, R231, R102 whole: the bytes of a stored block. -/
def Obligations.StoredBlockBytes : Prop :=
  ∀ (cb : BitVec 7) (cbn : BitVec 3) (bf : Bool) (data : List Byte), data.length ≤ 32768 →
    let v := cb.toNat % 2 ^ cbn.toNat + (if bf then 2 ^ cbn.toNat else 0)
    let n := data.length
    stored cb cbn bf data =
        (if cbn.toNat ≤ 5 then [BitVec.ofNat 8 v] else [BitVec.ofNat 8 v, BitVec.ofNat 8 (v / 256)])
          ++ [BitVec.ofNat 8 n, BitVec.ofNat 8 (n / 256)] ++ [~~~ BitVec.ofNat 8 n, ~~~ BitVec.ofNat 8 (n / 256)] ++ data ∧
      (stored cb cbn bf data).length = ceilDiv8 (cbn.toNat + 3) + 4 + n

/-- R226, R333: S6.FATAL latches ERR and returns the completion record's status and error code; nothing reaches the sink and nothing
else changes. -/
def Obligations.FatalStatus : Prop :=
  ∀ s : State,
    exec .s6Fatal s =
      .next
        { s with
          err := true, eclass := 3, hwstatus := s.cr.status, hwerr := s.cr.error
          count := if cmdOp s.cmd = 4#4 then s.rtotal else 0, upc := Upc.idle }

/-- R227, R228, R242: S7.UPDATE: the running checksum from the completion record, or computed where the job did not succeed; the
toggle flips; FIN is BF; WRITE_BLOCK ends with COUNT = N, READ_ALL goes to its loop head with N added to its total (log 18). That
the working arrays stay past the command's end is the model's (log 43). -/
def Obligations.UpdateEndsTheBlock : Prop :=
  ∀ s : State, s.work.n.toNat ≤ 32768 →
    let crc :=
      if s.submitFailed = false ∧ s.cr.status = s.par.success then s.cr.crc else crc32upd s.crc (s.inMem.readBytes 0 s.work.n.toNat)
    (cmdOp s.cmd ≠ 4#4 →
        exec .s7Update s =
          .next
            { s with
              crc := crc, tgl := !s.tgl, fin := s.work.bf, eclass := 0, hwstatus := 0, hwerr := 0
              count := s.work.n.setWidth 64, upc := Upc.idle }) ∧
      (cmdOp s.cmd = 4#4 →
        exec .s7Update s =
          .next
            { s with
              crc := crc, tgl := !s.tgl, fin := s.work.bf, rtotal := s.rtotal + s.work.n.setWidth 64, upc := Upc.xReadall })

/-- R212 whole, and inside READ_ALL R229: a zero-length block is an empty stored block: no job, CRC and TGL as they were. That inside
READ_ALL the result registers stay until the loop head ends the command is the model's reading (log 18), and that the working
arrays stay past a command's end is its choice (log 43). -/
def Obligations.ZeroLengthBlock : Prop :=
  ∀ s : State, s.sinkAccepts = true →
    (cmdOp s.cmd ≠ 4#4 →
        exec .zStored s =
          .next
            { s with
              sink := s.sink ++ stored s.cb s.cbn s.work.bf [], sinkQ := s.sinkQ.tail, cb := 0, cbn := 0
              fin := s.work.bf, count := 0, eclass := 0, hwstatus := 0, hwerr := 0, upc := Upc.idle }) ∧
      (cmdOp s.cmd = 4#4 →
        exec .zStored s =
          .next
            { s with
              sink := s.sink ++ stored s.cb s.cbn s.work.bf [], sinkQ := s.sinkQ.tail, cb := 0, cbn := 0
              fin := s.work.bf, upc := Upc.xReadall })

/-- R336: a sink that fails at the append of a block has taken a prefix; the command ends with E_SINK, ERR is latched, and CB, CBN,
CRC, TGL and FIN keep their values. That a stand-alone HDR_STORED ends so too, UPC at IDLE, COUNT by the word in `cmd`, is the model's (logs 14, 16, 46). -/
def Obligations.SinkErrorEndsTheCommand : Prop :=
  ∀ (s : State) (k : Nat) (q : List SinkAnswer), s.sinkQ = .fail k :: q →
    let after := fun bytes : List Byte =>
      { s with
        sink := s.sink ++ bytes.take k, sinkQ := q, err := true, eclass := 6, hwstatus := 0, hwerr := 0
        count := if cmdOp s.cmd = 4#4 then s.rtotal else 0, upc := Upc.idle : State }
    let p := s.cr.produced.toNat
    (1 ≤ p → p ≤ s.par.outCap → exec .s6EmitCarry s = .next (after (s.out.readBytes 0 (p - 1)))) ∧
      (p ≤ s.par.outCap → exec .s6EmitAll s = .next (after (s.out.readBytes 0 p))) ∧
      (s.work.n.toNat ≤ 32768 →
        exec .s6Stored s = .next (after (stored s.cb s.cbn s.work.bf (s.inMem.readBytes 0 s.work.n.toNat)))) ∧
      exec .zStored s = .next (after (stored s.cb s.cbn s.work.bf [])) ∧
      ∀ b : Bool, s.work.n.toNat ≤ 32768 → s.upc ≠ Upc.faulted →
        exec (.hdrStored b) s = .next (after (stored s.cb s.cbn b (s.inMem.readBytes 0 s.work.n.toNat)))

/-- R235, bit by bit: the stream so far (the sink's bits, then the Carried Bits) after a block's append. A compressed block replaces
the Carried Bits by everything it produced, up to its last valid bit; a stored block appends to the stream with no gap: its
three header bits, the padding to a byte, LEN, NLEN and its data.
(S6.EMIT_CARRY with `CR.bitrem = 0`: log 47.) -/
def Obligations.BitContinuity : Prop :=
  ∀ s t : State, s.sinkAccepts = true → s.carryFits → s.work.n.toNat ≤ 32768 →
    let p := s.cr.produced.toNat
    let storedBits := fun data : List Byte =>
      [s.work.bf, false, false] ++ List.replicate (8 * ceilDiv8 (s.cbn.toNat + 3) - (s.cbn.toNat + 3)) false
        ++ streamBits (bytesLe data.length 2 ++ bytesLe (65535 - data.length) 2 ++ data)
    (exec .s6EmitCarry s = .next t → 1 ≤ p → p ≤ s.par.outCap →
        t.streamSoFar =
          streamBits s.sink ++ (streamBits (s.out.readBytes 0 p)).take (8 * (p - 1) + s.cr.bitrem.toNat)) ∧
      (exec .s6EmitAll s = .next t → p ≤ s.par.outCap →
        t.streamSoFar = streamBits s.sink ++ streamBits (s.out.readBytes 0 p)) ∧
      (exec .s6Stored s = .next t →
        t.streamSoFar = s.streamSoFar ++ storedBits (s.inMem.readBytes 0 s.work.n.toNat)) ∧
      (exec .zStored s = .next t → t.streamSoFar = s.streamSoFar ++ storedBits [])

/-- R236, T2: on the running total, a block of N bytes adds at most N + 5: counting a byte for Carried Bits in hand, after the append
of a block the sink holds at most N + 5 bytes more than before it. -/
def Obligations.SinkBound : Prop :=
  ∀ s t : State, s.sinkAccepts = true → s.work.n.toNat ≤ 32768 →
    (exec .s6EmitCarry s = .next t → t.upc = Upc.s7Update → s.cr.produced.toNat ≤ s.work.n.toNat + 5 →
        t.bytesSoFar ≤ s.bytesSoFar + (s.work.n.toNat + 5)) ∧
      (exec .s6EmitAll s = .next t → t.upc = Upc.s7Update → s.cr.produced.toNat ≤ s.work.n.toNat + 5 →
        t.bytesSoFar ≤ s.bytesSoFar + (s.work.n.toNat + 5)) ∧
      (exec .s6Stored s = .next t → t.bytesSoFar ≤ s.bytesSoFar + (s.work.n.toNat + 5)) ∧
      (exec .zStored s = .next t → t.bytesSoFar ≤ s.bytesSoFar + 5)

/-- R244, R245: the running checksum. With an accelerator that continues the seed over the block (AS4 of R270), after S7.UPDATE CRC is
CRC32UPD of the old CRC and the block, on every path; and continuing over two blocks is continuing over their concatenation. -/
def Obligations.RunningChecksum : Prop :=
  (∀ s t : State, s.work.n.toNat ≤ 32768 →
      (s.cr.status = s.par.success → s.cr.crc = crc32upd s.crc s.block) →
      exec .s7Update s = .next t → t.crc = crc32upd s.crc s.block) ∧
    ∀ (c : BitVec 32) (a b : List Byte), crc32upd (crc32upd c a) b = crc32upd c (a ++ b)

/-! ### The whole machine -/

/-- Every step keeps every memory in its canonical form. The form (addresses strictly rising, no entry equal to what an unlisted
address reads as) is the model's own way to hold a space of bytes (R60), not a rule of the spec; what an unlisted address reads as is
log 2's. -/
def Obligations.StepKeepsMemoryCanonical : Prop :=
  ∀ s t : State, s.memoryInv → step s = .next t → t.memoryInv

/-- R176: every step keeps the accumulator's relations, and the accumulator clear outside S4.PREFIX to S4.FLUSH. -/
def Obligations.StepKeepsAccumulatorInv : Prop :=
  ∀ s t : State, s.accumulatorInv → step s = .next t → t.accumulatorInv

/-- Every step keeps what holds of the stream at each value of UPC: UPC a value of the table (R30), FAULT exactly in the FAULT state
(R340), no byte without a bound sink (R374), a running block past CHECK's tests and before the final block (R211), BF at READ_ALL's
loop head telling whether the final block has gone out (R242, log 18), the Carried Bits in their form and never from or after a
final block (R24, R243). -/
def Obligations.StepKeepsStreamInv : Prop :=
  ∀ s t : State, s.streamInv → step s = .next t → t.streamInv

/-- The three invariants of the statements above hold after hardware reset, with or without a device. -/
def Obligations.ResetMeetsInvariants : Prop :=
  (State.reset.memoryInv ∧ State.reset.accumulatorInv ∧ State.reset.streamInv) ∧
    ∀ ready, (State.hwReset ready).memoryInv ∧ (State.hwReset ready).accumulatorInv ∧ (State.hwReset ready).streamInv

/-- R31, R392: a command other than READ_ALL ends, at IDLE or at FAULT, in at most 25 micro-operations, given an answer to each of its
two queries and jobs (AS6 of R270). -/
def Obligations.CommandEndsWithin25 : Prop :=
  ∀ s : State,
    s.wire = none → s.upc = Upc.check → cmdOp s.cmd ≠ 4#4 → 2 ≤ s.xferQ.length → 2 ≤ s.jobQ.length →
    ∃ k, k ≤ 25 ∧ RunsTo k s Ended

/-- R66: nothing appended to the bound sink is ever changed or withdrawn: but for RESET and hardware reset, which end the binding,
every step leaves the sink's bytes as the beginning of the sink's bytes after it. -/
def Obligations.SinkIsAppendOnly : Prop :=
  ∀ s t : State,
    s.upc ≠ Upc.xReset → (∀ ready q, s.script ≠ .hardwareReset ready :: q) → step s = .next t → s.sink <+: t.sink

/-- R72: during a block, and in every other step outside IDLE and FAULT, AECS[1 - TGL] is not written by the DFE; that a job does not
write it either is the assumption AS5 of R270, which the model builds into every job (log 7). -/
def Obligations.OtherInstanceIsUntouched : Prop :=
  ∀ s t : State, s.busy = true → step s = .next t → t.aecs (!s.tgl) = s.aecs (!s.tgl)

/-- R240, R372, T3, Idempotent Reset: two streams about to execute the RESET command, with the same inputs and whatever their
registers, working arrays, AECS, OUT, CR and old sinks hold, run alike from then on: same sinks, same results, same flags. -/
def Obligations.ResetForgetsTheEarlierStream : Prop :=
  ∀ s t : State,
    s.upc = Upc.xReset → t.upc = Upc.xReset → s.memoryInv → t.memoryInv → State.sameInputs s t → s.fault = t.fault →
    ∀ (k : Nat) (a : State), Host.Core.run core (k + 1) s = .next a →
      ∃ b, Host.Core.run core (k + 1) t = .next b ∧ b.observed = a.observed

/-- R333, precision: a WRITE_BLOCK that ends with an error other than E_SINK has contributed nothing to the sink, and CB, CBN, CRC, TGL
and FIN are what they were when it was checked. -/
def Obligations.FailedBlockLeavesTheStream : Prop :=
  ∀ (s : State) (k : Nat) (t : State),
    s.wire = none → s.upc = Upc.check → cmdOp s.cmd ≠ 4#4 → cmdOp s.cmd ≠ 1#4 →
    (∀ j, j < k → RunsTo j s fun u => u.upc ≠ Upc.idle) →
    Host.Core.run core k s = .next t → t.upc = Upc.idle → t.eclass ≠ 0 → t.eclass ≠ 6 →
    t.sink = s.sink ∧ t.cb = s.cb ∧ t.cbn = s.cbn ∧ t.crc = s.crc ∧ t.tgl = s.tgl ∧ t.fin = s.fin

/-- R235, T9, under AS2 of R270: the Carried Bits reach the stream. From S4.PREFIX to S7.UPDATE, nine steps, with a successful or
overflowed encode job whose output, when successful, begins with the header it was given, the stream so far is the beginning of the
stream after the block: no bit is lost, repeated or moved between blocks.
(Counts below their floors: log 47.) -/
def Obligations.CarriedBitsReachTheStream : Prop :=
  ∀ (s : State) (m : Nat) (q : List Nat) (r : JobAnswer) (q' : List JobAnswer),
    s.wire = none → s.upc = Upc.s4Prefix → s.memoryInv → s.accumulatorClear → s.carryFits → s.sinkAccepts = true →
    s.work.n.toNat ≤ 32768 → s.work.nclen.toNat ≤ 19 → fieldsLength s.headerFields ≤ 2048 →
    s.xferQ = m :: q → s.work.n.toNat ≤ m → s.par.outCap ≤ m → s.jobQ = r :: q' →
    r.submitStatus = none →
    (r.cr.status = s.par.success →
        1 ≤ r.cr.produced.toNat ∧ r.cr.produced.toNat ≤ s.par.outCap ∧
          s.headerFields.flatMap fieldBits <+: producedBits r) →
    (r.cr.status ≠ s.par.success → (r.cr.status, r.cr.error) ∈ s.par.overflowSet) →
    RunsTo 9 s fun t => t.upc = Upc.s7Update ∧ s.streamSoFar <+: t.streamSoFar
end

