-- ==== Sys2Proof/Laws/Memory.lean ====
section
/-! SUPPORT. The laws of one space: a read after a write, and that every write keeps the canonical form. -/

namespace Sys2Proof.Machine

theorem cellsRead_write_same (l : List Host.Cell) (a : Nat) (b : Byte) (lo : Nat) (h : cellsWf lo l = true) :
    cellsRead (cellsWrite l a b) a = b := by
  induction l generalizing lo with
  | nil => by_cases hb : b = unlistedByte <;> simp [cellsWrite, cellsRead, hb]
  | cons p t ih =>
    obtain ⟨k, c⟩ := p
    simp only [cellsWf, Bool.and_eq_true, decide_eq_true_eq] at h
    obtain ⟨⟨hlo, hc⟩, ht⟩ := h
    have absent : ∀ (t : List Host.Cell) (lo : Nat), cellsWf lo t = true → a < lo → cellsRead t a = unlistedByte := by
      intro t
      induction t with
      | nil => intros; rfl
      | cons q t ih =>
        obtain ⟨k', c'⟩ := q
        intro lo hw hlt
        simp only [cellsWf, Bool.and_eq_true, decide_eq_true_eq] at hw
        have : a ≠ k' := by omega
        simp only [cellsRead, this, if_false]
        exact ih _ hw.2 (by omega)
    simp only [cellsWrite]
    by_cases h1 : a < k
    · have hne : a ≠ k := by omega
      by_cases hb : b = unlistedByte
      · simp [h1, hb, cellsRead, hne, absent t (k + 1) ht (by omega)]
      · simp [h1, hb, cellsRead]
    · by_cases h2 : a = k
      · subst h2
        by_cases hb : b = unlistedByte
        · simp [hb, absent t (a + 1) ht (by omega)]
        · simp [hb, cellsRead]
      · simp [h1, h2, cellsRead, ih _ ht]

theorem cellsRead_write_other (l : List Host.Cell) (a a' : Nat) (b : Byte) (hne : a' ≠ a) :
    cellsRead (cellsWrite l a b) a' = cellsRead l a' := by
  induction l with
  | nil => by_cases hb : b = unlistedByte <;> simp [cellsWrite, cellsRead, hb, hne]
  | cons p t ih =>
    obtain ⟨k, c⟩ := p
    simp only [cellsWrite]
    by_cases h1 : a < k
    · by_cases hb : b = unlistedByte <;> simp [h1, hb, cellsRead, hne]
    · by_cases h2 : a = k
      · subst h2
        by_cases hb : b = unlistedByte <;> simp [hb, cellsRead, hne]
      · simp [h1, h2, cellsRead, ih]

theorem cellsWf_mono (l : List Host.Cell) (lo lo' : Nat) (h : cellsWf lo l = true) (hle : lo' ≤ lo) :
    cellsWf lo' l = true := by
  cases l with
  | nil => rfl
  | cons p t =>
    obtain ⟨k, c⟩ := p
    simp only [cellsWf, Bool.and_eq_true, decide_eq_true_eq] at h ⊢
    exact ⟨⟨by omega, h.1.2⟩, h.2⟩

theorem cellsWf_write (l : List Host.Cell) (a : Nat) (b : Byte) (lo : Nat) (h : cellsWf lo l = true) (hlo : lo ≤ a) :
    cellsWf lo (cellsWrite l a b) = true := by
  induction l generalizing lo with
  | nil => by_cases hb : b = unlistedByte <;> simp [cellsWrite, cellsWf, hb, hlo]
  | cons p t ih =>
    obtain ⟨k, c⟩ := p
    have h0 := h
    simp only [cellsWf, Bool.and_eq_true, decide_eq_true_eq] at h
    obtain ⟨⟨hk, hc⟩, ht⟩ := h
    simp only [cellsWrite]
    by_cases h1 : a < k
    · by_cases hb : b = unlistedByte
      · simpa [h1, hb] using h0
      · simp only [h1, hb, if_true, if_false, cellsWf, Bool.and_eq_true, decide_eq_true_eq]
        exact ⟨⟨hlo, hb⟩, ⟨by omega, hc⟩, ht⟩
    · by_cases h2 : a = k
      · subst h2
        by_cases hb : b = unlistedByte
        · simpa [hb] using cellsWf_mono t _ _ ht (by omega)
        · simp only [lt_irrefl, hb, if_true, if_false, cellsWf, Bool.and_eq_true, decide_eq_true_eq]
          exact ⟨⟨hlo, hb⟩, ht⟩
      · simp only [h1, h2, if_false, cellsWf, Bool.and_eq_true, decide_eq_true_eq]
        exact ⟨⟨hk, hc⟩, ih _ ht (by omega)⟩

/-! ### One byte -/

theorem Memory.read_write_same (m : Memory) (a : Nat) (b : Byte) (h : m.wf = true) : (m.write a b).read a = b :=
  cellsRead_write_same m.cells a b 0 h

theorem Memory.read_write_other (m : Memory) (a a' : Nat) (b : Byte) (hne : a' ≠ a) :
    (m.write a b).read a' = m.read a' :=
  cellsRead_write_other m.cells a a' b hne

theorem Memory.wf_write (m : Memory) (a : Nat) (b : Byte) (h : m.wf = true) : (m.write a b).wf = true :=
  cellsWf_write m.cells a b 0 h (Nat.zero_le a)

@[simp] theorem Memory.wf_empty : Memory.empty.wf = true := rfl

@[simp] theorem Memory.read_empty (a : Nat) : Memory.empty.read a = unlistedByte := rfl

/-! ### Runs of bytes -/

theorem Memory.wf_writeBytes (m : Memory) (a : Nat) (bs : List Byte) (h : m.wf = true) : (m.writeBytes a bs).wf = true := by
  induction bs generalizing m a with
  | nil => exact h
  | cons b bs ih => exact ih _ _ (m.wf_write a b h)

theorem Memory.read_writeBytes_outside (m : Memory) (a a' : Nat) (bs : List Byte) (h : a' < a ∨ a + bs.length ≤ a') :
    (m.writeBytes a bs).read a' = m.read a' := by
  induction bs generalizing m a with
  | nil => rfl
  | cons b bs ih =>
    simp only [List.length_cons] at h
    rw [Memory.writeBytes, ih _ _ (by omega), m.read_write_other a a' b (by omega)]

theorem Memory.read_writeBytes_inside (m : Memory) (a k : Nat) (bs : List Byte) (h : m.wf = true) (hk : k < bs.length) :
    (m.writeBytes a bs).read (a + k) = bs[k] := by
  induction bs generalizing m a k with
  | nil => simp at hk
  | cons b bs ih =>
    rw [Memory.writeBytes]
    cases k with
    | zero => rw [Memory.read_writeBytes_outside _ _ _ _ (by omega)]; exact m.read_write_same a b h
    | succ k =>
      have := ih (m.write a b) (a + 1) k (m.wf_write a b h) (by simpa using hk)
      simpa [Nat.add_assoc, Nat.add_comm 1 k] using this

@[simp] theorem Memory.length_readBytes (m : Memory) (a n : Nat) : (m.readBytes a n).length = n := by
  induction n generalizing a with
  | zero => rfl
  | succ n ih => simp [Memory.readBytes, ih]

theorem Memory.getElem_readBytes (m : Memory) (a n k : Nat) (h : k < (m.readBytes a n).length) :
    (m.readBytes a n)[k] = m.read (a + k) := by
  induction n generalizing a k with
  | zero => simp [Memory.readBytes] at h
  | succ n ih =>
    cases k with
    | zero => rfl
    | succ k =>
      have := ih (a + 1) k (by simpa [Memory.readBytes] using h)
      simpa [Memory.readBytes, Nat.add_assoc, Nat.add_comm 1 k] using this

theorem Memory.readBytes_congr (m m' : Memory) (a n : Nat) (h : ∀ k, k < n → m.read (a + k) = m'.read (a + k)) :
    m.readBytes a n = m'.readBytes a n := by
  induction n generalizing a with
  | zero => rfl
  | succ n ih =>
    have h0 := h 0 (by omega)
    have ht := ih (a + 1) fun k hk => by simpa [Nat.add_assoc, Nat.add_comm 1 k] using h (k + 1) (by omega)
    simp only [Nat.add_zero] at h0
    simp [Memory.readBytes, h0, ht]

@[simp] theorem length_bytesLe (v k : Nat) : (bytesLe v k).length = k := by
  induction k generalizing v with
  | zero => rfl
  | succ k ih => simp [bytesLe, ih]

theorem ofBytesLe_bytesLe (v k : Nat) : ofBytesLe (bytesLe v k) = v % 256 ^ k := by
  induction k generalizing v with
  | zero => simp [bytesLe, ofBytesLe, Nat.mod_one]
  | succ k ih =>
    have hpow : 256 ^ (k + 1) = 256 * 256 ^ k := by rw [pow_succ, Nat.mul_comm]
    simp only [bytesLe, ofBytesLe, ih, BitVec.toNat_ofNat, Nat.reducePow]
    rw [hpow, Nat.mod_mul]

/-! ### The named accesses -/

/-- What MemWrite can do: inside the space it writes the little-endian bytes, outside it is none. -/
theorem memWrite_cases (size : Nat) (m : Memory) (a n v : Nat) :
    (inRegion size a n = true ∧ memWrite size m a n v = some (m.writeBytes a (bytesLe v n))) ∨
      (inRegion size a n = false ∧ memWrite size m a n v = none) := by
  cases h : inRegion size a n <;> simp [memWrite, h]

/-- What MemRead can do. -/
theorem memRead_cases (size : Nat) (m : Memory) (a n : Nat) :
    (inRegion size a n = true ∧ memRead size m a n = some (ofBytesLe (m.readBytes a n))) ∨
      (inRegion size a n = false ∧ memRead size m a n = none) := by
  cases h : inRegion size a n <;> simp [memRead, h]

/-- What MemRead of bytes can do. -/
theorem memReadBytes_cases (size : Nat) (m : Memory) (a n : Nat) :
    (inRegion size a n = true ∧ memReadBytes size m a n = some (m.readBytes a n)) ∨
      (inRegion size a n = false ∧ memReadBytes size m a n = none) := by
  cases h : inRegion size a n <;> simp [memReadBytes, h]

theorem memWrite_wf {size : Nat} {m m' : Memory} {a n v : Nat} (h : m.wf = true)
    (hw : memWrite size m a n v = some m') : m'.wf = true := by
  rcases memWrite_cases size m a n v with ⟨_, h'⟩ | ⟨_, h'⟩ <;> rw [h'] at hw
  · cases hw; exact m.wf_writeBytes a _ h
  · cases hw

/-! ### Tables -/

theorem Memory.wf_setEntry (m : Memory) (i : Nat) (v : BitVec 32) (h : m.wf = true) : (m.setEntry i v).wf = true :=
  m.wf_writeBytes _ _ h

theorem Memory.wf_setEntries (m : Memory) (i : Nat) (vs : List (BitVec 32)) (h : m.wf = true) :
    (m.setEntries i vs).wf = true := by
  induction vs generalizing m i with
  | nil => exact h
  | cons v vs ih => exact ih _ _ (m.wf_setEntry i v h)

theorem Memory.entry_setEntry_same (m : Memory) (i : Nat) (v : BitVec 32) (h : m.wf = true) : (m.setEntry i v).entry i = v := by
  have hb : (m.setEntry i v).readBytes (4 * i) 4 = bytesLe v.toNat 4 := by
    have hr := fun k (hk : k < 4) =>
      m.read_writeBytes_inside (4 * i) k (bytesLe v.toNat 4) h (by simpa using hk)
    have h0 := hr 0 (by omega)
    have h1 := hr 1 (by omega)
    have h2 := hr 2 (by omega)
    have h3 := hr 3 (by omega)
    simp only [bytesLe, List.getElem_cons_zero, List.getElem_cons_succ, Nat.add_zero] at h0 h1 h2 h3
    simp only [Memory.setEntry, Memory.readBytes, bytesLe, Nat.add_assoc]
    simp only [h0, h1, h2, h3, Nat.reduceAdd]
  have hv := v.isLt
  simp only [Memory.entry, hb, ofBytesLe_bytesLe]
  apply BitVec.eq_of_toNat_eq
  simp only [BitVec.toNat_ofNat]
  omega

theorem Memory.entry_setEntry_other (m : Memory) (i j : Nat) (v : BitVec 32) (hne : j ≠ i) :
    (m.setEntry i v).entry j = m.entry j := by
  have : (m.setEntry i v).readBytes (4 * j) 4 = m.readBytes (4 * j) 4 :=
    Memory.readBytes_congr _ _ _ _ fun k hk =>
      m.read_writeBytes_outside _ _ _ (by simp only [length_bytesLe]; omega)
  simp [Memory.entry, this]

theorem Memory.entry_setEntries (m : Memory) (i j : Nat) (vs : List (BitVec 32)) (h : m.wf = true) :
    (m.setEntries i vs).entry j = if i ≤ j ∧ j < i + vs.length then vs.getD (j - i) 0 else m.entry j := by
  induction vs generalizing m i with
  | nil => simp [Memory.setEntries]
  | cons v vs ih =>
    rw [Memory.setEntries, ih _ _ (m.wf_setEntry i v h)]
    by_cases hj : j = i
    · subst hj; simp [Memory.entry_setEntry_same m j v h]
    · rw [m.entry_setEntry_other i j v hj]
      by_cases hin : i + 1 ≤ j ∧ j < i + 1 + vs.length
      · rw [if_pos hin, if_pos ⟨by omega, by simp only [List.length_cons]; omega⟩]
        obtain ⟨d, rfl⟩ : ∃ d, j = i + 1 + d := ⟨j - (i + 1), by omega⟩
        rw [show i + 1 + d - (i + 1) = d by omega, show i + 1 + d - i = d + 1 by omega, List.getD_cons_succ]
      · rw [if_neg hin, if_neg]
        simp only [List.length_cons]; omega

/-! ### Arrays -/

@[simp] theorem length_padded {w : Nat} (n : Nat) (l : List (BitVec w)) : (padded n l).length = n := by simp [padded]

theorem getD_padded {w : Nat} (n i : Nat) (l : List (BitVec w)) (h : i < n) : (padded n l).getD i 0 = l.getD i 0 := by
  simp [padded, List.getD, h]

end Sys2Proof.Machine
end

