-- ==== Sys2Proof/Laws/State.lean ====
section
/-! SUPPORT. One lemma per field per update of the state, true by rfl (or by cases on which AECS instance is written). -/

namespace Sys2Proof.Machine

/-! ### goto -/

@[simp] theorem State.goto_acc (s : State) (u : BitVec 8) : (s.goto u).acc = s.acc := rfl
@[simp] theorem State.goto_nb (s : State) (u : BitVec 8) : (s.goto u).nb = s.nb := rfl
@[simp] theorem State.goto_total (s : State) (u : BitVec 8) : (s.goto u).total = s.total := rfl
@[simp] theorem State.goto_outp (s : State) (u : BitVec 8) : (s.goto u).outp = s.outp := rfl
@[simp] theorem State.goto_cb (s : State) (u : BitVec 8) : (s.goto u).cb = s.cb := rfl
@[simp] theorem State.goto_cbn (s : State) (u : BitVec 8) : (s.goto u).cbn = s.cbn := rfl
@[simp] theorem State.goto_hb (s : State) (u : BitVec 8) : (s.goto u).hb = s.hb := rfl
@[simp] theorem State.goto_crc (s : State) (u : BitVec 8) : (s.goto u).crc = s.crc := rfl
@[simp] theorem State.goto_tgl (s : State) (u : BitVec 8) : (s.goto u).tgl = s.tgl := rfl
@[simp] theorem State.goto_err (s : State) (u : BitVec 8) : (s.goto u).err = s.err := rfl
@[simp] theorem State.goto_fin (s : State) (u : BitVec 8) : (s.goto u).fin = s.fin := rfl
@[simp] theorem State.goto_fault (s : State) (u : BitVec 8) : (s.goto u).fault = s.fault := rfl
@[simp] theorem State.goto_closed (s : State) (u : BitVec 8) : (s.goto u).closed = s.closed := rfl
@[simp] theorem State.goto_nodev (s : State) (u : BitVec 8) : (s.goto u).nodev = s.nodev := rfl
@[simp] theorem State.goto_bound (s : State) (u : BitVec 8) : (s.goto u).bound = s.bound := rfl
@[simp] theorem State.goto_conv (s : State) (u : BitVec 8) : (s.goto u).conv = s.conv := rfl
@[simp] theorem State.goto_upc (s : State) (u : BitVec 8) : (s.goto u).upc = u := rfl
@[simp] theorem State.goto_eclass (s : State) (u : BitVec 8) : (s.goto u).eclass = s.eclass := rfl
@[simp] theorem State.goto_hwstatus (s : State) (u : BitVec 8) : (s.goto u).hwstatus = s.hwstatus := rfl
@[simp] theorem State.goto_hwerr (s : State) (u : BitVec 8) : (s.goto u).hwerr = s.hwerr := rfl
@[simp] theorem State.goto_count (s : State) (u : BitVec 8) : (s.goto u).count = s.count := rfl
@[simp] theorem State.goto_maxxfer (s : State) (u : BitVec 8) : (s.goto u).maxxfer = s.maxxfer := rfl
@[simp] theorem State.goto_cmd (s : State) (u : BitVec 8) : (s.goto u).cmd = s.cmd := rfl
@[simp] theorem State.goto_rtotal (s : State) (u : BitVec 8) : (s.goto u).rtotal = s.rtotal := rfl
@[simp] theorem State.goto_work (s : State) (u : BitVec 8) : (s.goto u).work = s.work := rfl
@[simp] theorem State.goto_inMem (s : State) (u : BitVec 8) : (s.goto u).inMem = s.inMem := rfl
@[simp] theorem State.goto_aecs0 (s : State) (u : BitVec 8) : (s.goto u).aecs0 = s.aecs0 := rfl
@[simp] theorem State.goto_aecs1 (s : State) (u : BitVec 8) : (s.goto u).aecs1 = s.aecs1 := rfl
@[simp] theorem State.goto_out (s : State) (u : BitVec 8) : (s.goto u).out = s.out := rfl
@[simp] theorem State.goto_cr (s : State) (u : BitVec 8) : (s.goto u).cr = s.cr := rfl
@[simp] theorem State.goto_submitFailed (s : State) (u : BitVec 8) : (s.goto u).submitFailed = s.submitFailed := rfl
@[simp] theorem State.goto_sink (s : State) (u : BitVec 8) : (s.goto u).sink = s.sink := rfl
@[simp] theorem State.goto_released (s : State) (u : BitVec 8) : (s.goto u).released = s.released := rfl
@[simp] theorem State.goto_src (s : State) (u : BitVec 8) : (s.goto u).src = s.src := rfl
@[simp] theorem State.goto_desc (s : State) (u : BitVec 8) : (s.goto u).desc = s.desc := rfl
@[simp] theorem State.goto_par (s : State) (u : BitVec 8) : (s.goto u).par = s.par := rfl
@[simp] theorem State.goto_script (s : State) (u : BitVec 8) : (s.goto u).script = s.script := rfl
@[simp] theorem State.goto_xferQ (s : State) (u : BitVec 8) : (s.goto u).xferQ = s.xferQ := rfl
@[simp] theorem State.goto_jobQ (s : State) (u : BitVec 8) : (s.goto u).jobQ = s.jobQ := rfl
@[simp] theorem State.goto_sinkQ (s : State) (u : BitVec 8) : (s.goto u).sinkQ = s.sinkQ := rfl
@[simp] theorem State.goto_wire (s : State) (u : BitVec 8) : (s.goto u).wire = s.wire := rfl
@[simp] theorem State.goto_ci (s : State) (u : BitVec 8) : (s.goto u).ci = s.ci := rfl
@[simp] theorem State.goto_freeCtr (s : State) (u : BitVec 8) : (s.goto u).freeCtr = s.freeCtr := rfl

/-! ### setResult -/

@[simp] theorem State.setResult_acc (s : State) (c : ErrClass) (st er : BitVec 8) (n : BitVec 64) : (s.setResult c st er n).acc = s.acc := rfl
@[simp] theorem State.setResult_nb (s : State) (c : ErrClass) (st er : BitVec 8) (n : BitVec 64) : (s.setResult c st er n).nb = s.nb := rfl
@[simp] theorem State.setResult_total (s : State) (c : ErrClass) (st er : BitVec 8) (n : BitVec 64) : (s.setResult c st er n).total = s.total := rfl
@[simp] theorem State.setResult_outp (s : State) (c : ErrClass) (st er : BitVec 8) (n : BitVec 64) : (s.setResult c st er n).outp = s.outp := rfl
@[simp] theorem State.setResult_cb (s : State) (c : ErrClass) (st er : BitVec 8) (n : BitVec 64) : (s.setResult c st er n).cb = s.cb := rfl
@[simp] theorem State.setResult_cbn (s : State) (c : ErrClass) (st er : BitVec 8) (n : BitVec 64) : (s.setResult c st er n).cbn = s.cbn := rfl
@[simp] theorem State.setResult_hb (s : State) (c : ErrClass) (st er : BitVec 8) (n : BitVec 64) : (s.setResult c st er n).hb = s.hb := rfl
@[simp] theorem State.setResult_crc (s : State) (c : ErrClass) (st er : BitVec 8) (n : BitVec 64) : (s.setResult c st er n).crc = s.crc := rfl
@[simp] theorem State.setResult_tgl (s : State) (c : ErrClass) (st er : BitVec 8) (n : BitVec 64) : (s.setResult c st er n).tgl = s.tgl := rfl
@[simp] theorem State.setResult_err (s : State) (c : ErrClass) (st er : BitVec 8) (n : BitVec 64) : (s.setResult c st er n).err = s.err := rfl
@[simp] theorem State.setResult_fin (s : State) (c : ErrClass) (st er : BitVec 8) (n : BitVec 64) : (s.setResult c st er n).fin = s.fin := rfl
@[simp] theorem State.setResult_fault (s : State) (c : ErrClass) (st er : BitVec 8) (n : BitVec 64) : (s.setResult c st er n).fault = s.fault := rfl
@[simp] theorem State.setResult_closed (s : State) (c : ErrClass) (st er : BitVec 8) (n : BitVec 64) : (s.setResult c st er n).closed = s.closed := rfl
@[simp] theorem State.setResult_nodev (s : State) (c : ErrClass) (st er : BitVec 8) (n : BitVec 64) : (s.setResult c st er n).nodev = s.nodev := rfl
@[simp] theorem State.setResult_bound (s : State) (c : ErrClass) (st er : BitVec 8) (n : BitVec 64) : (s.setResult c st er n).bound = s.bound := rfl
@[simp] theorem State.setResult_conv (s : State) (c : ErrClass) (st er : BitVec 8) (n : BitVec 64) : (s.setResult c st er n).conv = s.conv := rfl
@[simp] theorem State.setResult_upc (s : State) (c : ErrClass) (st er : BitVec 8) (n : BitVec 64) : (s.setResult c st er n).upc = s.upc := rfl
@[simp] theorem State.setResult_eclass (s : State) (c : ErrClass) (st er : BitVec 8) (n : BitVec 64) : (s.setResult c st er n).eclass = c.code := rfl
@[simp] theorem State.setResult_hwstatus (s : State) (c : ErrClass) (st er : BitVec 8) (n : BitVec 64) : (s.setResult c st er n).hwstatus = st := rfl
@[simp] theorem State.setResult_hwerr (s : State) (c : ErrClass) (st er : BitVec 8) (n : BitVec 64) : (s.setResult c st er n).hwerr = er := rfl
@[simp] theorem State.setResult_count (s : State) (c : ErrClass) (st er : BitVec 8) (n : BitVec 64) : (s.setResult c st er n).count = n := rfl
@[simp] theorem State.setResult_maxxfer (s : State) (c : ErrClass) (st er : BitVec 8) (n : BitVec 64) : (s.setResult c st er n).maxxfer = s.maxxfer := rfl
@[simp] theorem State.setResult_cmd (s : State) (c : ErrClass) (st er : BitVec 8) (n : BitVec 64) : (s.setResult c st er n).cmd = s.cmd := rfl
@[simp] theorem State.setResult_rtotal (s : State) (c : ErrClass) (st er : BitVec 8) (n : BitVec 64) : (s.setResult c st er n).rtotal = s.rtotal := rfl
@[simp] theorem State.setResult_work (s : State) (c : ErrClass) (st er : BitVec 8) (n : BitVec 64) : (s.setResult c st er n).work = s.work := rfl
@[simp] theorem State.setResult_inMem (s : State) (c : ErrClass) (st er : BitVec 8) (n : BitVec 64) : (s.setResult c st er n).inMem = s.inMem := rfl
@[simp] theorem State.setResult_aecs0 (s : State) (c : ErrClass) (st er : BitVec 8) (n : BitVec 64) : (s.setResult c st er n).aecs0 = s.aecs0 := rfl
@[simp] theorem State.setResult_aecs1 (s : State) (c : ErrClass) (st er : BitVec 8) (n : BitVec 64) : (s.setResult c st er n).aecs1 = s.aecs1 := rfl
@[simp] theorem State.setResult_out (s : State) (c : ErrClass) (st er : BitVec 8) (n : BitVec 64) : (s.setResult c st er n).out = s.out := rfl
@[simp] theorem State.setResult_cr (s : State) (c : ErrClass) (st er : BitVec 8) (n : BitVec 64) : (s.setResult c st er n).cr = s.cr := rfl
@[simp] theorem State.setResult_submitFailed (s : State) (c : ErrClass) (st er : BitVec 8) (n : BitVec 64) : (s.setResult c st er n).submitFailed = s.submitFailed := rfl
@[simp] theorem State.setResult_sink (s : State) (c : ErrClass) (st er : BitVec 8) (n : BitVec 64) : (s.setResult c st er n).sink = s.sink := rfl
@[simp] theorem State.setResult_released (s : State) (c : ErrClass) (st er : BitVec 8) (n : BitVec 64) : (s.setResult c st er n).released = s.released := rfl
@[simp] theorem State.setResult_src (s : State) (c : ErrClass) (st er : BitVec 8) (n : BitVec 64) : (s.setResult c st er n).src = s.src := rfl
@[simp] theorem State.setResult_desc (s : State) (c : ErrClass) (st er : BitVec 8) (n : BitVec 64) : (s.setResult c st er n).desc = s.desc := rfl
@[simp] theorem State.setResult_par (s : State) (c : ErrClass) (st er : BitVec 8) (n : BitVec 64) : (s.setResult c st er n).par = s.par := rfl
@[simp] theorem State.setResult_script (s : State) (c : ErrClass) (st er : BitVec 8) (n : BitVec 64) : (s.setResult c st er n).script = s.script := rfl
@[simp] theorem State.setResult_xferQ (s : State) (c : ErrClass) (st er : BitVec 8) (n : BitVec 64) : (s.setResult c st er n).xferQ = s.xferQ := rfl
@[simp] theorem State.setResult_jobQ (s : State) (c : ErrClass) (st er : BitVec 8) (n : BitVec 64) : (s.setResult c st er n).jobQ = s.jobQ := rfl
@[simp] theorem State.setResult_sinkQ (s : State) (c : ErrClass) (st er : BitVec 8) (n : BitVec 64) : (s.setResult c st er n).sinkQ = s.sinkQ := rfl
@[simp] theorem State.setResult_wire (s : State) (c : ErrClass) (st er : BitVec 8) (n : BitVec 64) : (s.setResult c st er n).wire = s.wire := rfl
@[simp] theorem State.setResult_ci (s : State) (c : ErrClass) (st er : BitVec 8) (n : BitVec 64) : (s.setResult c st er n).ci = s.ci := rfl
@[simp] theorem State.setResult_freeCtr (s : State) (c : ErrClass) (st er : BitVec 8) (n : BitVec 64) : (s.setResult c st er n).freeCtr = s.freeCtr := rfl

/-! ### finish -/

@[simp] theorem State.finish_acc (s : State) (n : BitVec 64) : (s.finish n).acc = s.acc := rfl
@[simp] theorem State.finish_nb (s : State) (n : BitVec 64) : (s.finish n).nb = s.nb := rfl
@[simp] theorem State.finish_total (s : State) (n : BitVec 64) : (s.finish n).total = s.total := rfl
@[simp] theorem State.finish_outp (s : State) (n : BitVec 64) : (s.finish n).outp = s.outp := rfl
@[simp] theorem State.finish_cb (s : State) (n : BitVec 64) : (s.finish n).cb = s.cb := rfl
@[simp] theorem State.finish_cbn (s : State) (n : BitVec 64) : (s.finish n).cbn = s.cbn := rfl
@[simp] theorem State.finish_hb (s : State) (n : BitVec 64) : (s.finish n).hb = s.hb := rfl
@[simp] theorem State.finish_crc (s : State) (n : BitVec 64) : (s.finish n).crc = s.crc := rfl
@[simp] theorem State.finish_tgl (s : State) (n : BitVec 64) : (s.finish n).tgl = s.tgl := rfl
@[simp] theorem State.finish_err (s : State) (n : BitVec 64) : (s.finish n).err = s.err := rfl
@[simp] theorem State.finish_fin (s : State) (n : BitVec 64) : (s.finish n).fin = s.fin := rfl
@[simp] theorem State.finish_fault (s : State) (n : BitVec 64) : (s.finish n).fault = s.fault := rfl
@[simp] theorem State.finish_closed (s : State) (n : BitVec 64) : (s.finish n).closed = s.closed := rfl
@[simp] theorem State.finish_nodev (s : State) (n : BitVec 64) : (s.finish n).nodev = s.nodev := rfl
@[simp] theorem State.finish_bound (s : State) (n : BitVec 64) : (s.finish n).bound = s.bound := rfl
@[simp] theorem State.finish_conv (s : State) (n : BitVec 64) : (s.finish n).conv = s.conv := rfl
@[simp] theorem State.finish_upc (s : State) (n : BitVec 64) : (s.finish n).upc = Upc.idle := rfl
@[simp] theorem State.finish_eclass (s : State) (n : BitVec 64) : (s.finish n).eclass = ErrClass.ok.code := rfl
@[simp] theorem State.finish_hwstatus (s : State) (n : BitVec 64) : (s.finish n).hwstatus = 0 := rfl
@[simp] theorem State.finish_hwerr (s : State) (n : BitVec 64) : (s.finish n).hwerr = 0 := rfl
@[simp] theorem State.finish_count (s : State) (n : BitVec 64) : (s.finish n).count = n := rfl
@[simp] theorem State.finish_maxxfer (s : State) (n : BitVec 64) : (s.finish n).maxxfer = s.maxxfer := rfl
@[simp] theorem State.finish_cmd (s : State) (n : BitVec 64) : (s.finish n).cmd = s.cmd := rfl
@[simp] theorem State.finish_rtotal (s : State) (n : BitVec 64) : (s.finish n).rtotal = s.rtotal := rfl
@[simp] theorem State.finish_work (s : State) (n : BitVec 64) : (s.finish n).work = s.work := rfl
@[simp] theorem State.finish_inMem (s : State) (n : BitVec 64) : (s.finish n).inMem = s.inMem := rfl
@[simp] theorem State.finish_aecs0 (s : State) (n : BitVec 64) : (s.finish n).aecs0 = s.aecs0 := rfl
@[simp] theorem State.finish_aecs1 (s : State) (n : BitVec 64) : (s.finish n).aecs1 = s.aecs1 := rfl
@[simp] theorem State.finish_out (s : State) (n : BitVec 64) : (s.finish n).out = s.out := rfl
@[simp] theorem State.finish_cr (s : State) (n : BitVec 64) : (s.finish n).cr = s.cr := rfl
@[simp] theorem State.finish_submitFailed (s : State) (n : BitVec 64) : (s.finish n).submitFailed = s.submitFailed := rfl
@[simp] theorem State.finish_sink (s : State) (n : BitVec 64) : (s.finish n).sink = s.sink := rfl
@[simp] theorem State.finish_released (s : State) (n : BitVec 64) : (s.finish n).released = s.released := rfl
@[simp] theorem State.finish_src (s : State) (n : BitVec 64) : (s.finish n).src = s.src := rfl
@[simp] theorem State.finish_desc (s : State) (n : BitVec 64) : (s.finish n).desc = s.desc := rfl
@[simp] theorem State.finish_par (s : State) (n : BitVec 64) : (s.finish n).par = s.par := rfl
@[simp] theorem State.finish_script (s : State) (n : BitVec 64) : (s.finish n).script = s.script := rfl
@[simp] theorem State.finish_xferQ (s : State) (n : BitVec 64) : (s.finish n).xferQ = s.xferQ := rfl
@[simp] theorem State.finish_jobQ (s : State) (n : BitVec 64) : (s.finish n).jobQ = s.jobQ := rfl
@[simp] theorem State.finish_sinkQ (s : State) (n : BitVec 64) : (s.finish n).sinkQ = s.sinkQ := rfl
@[simp] theorem State.finish_wire (s : State) (n : BitVec 64) : (s.finish n).wire = s.wire := rfl
@[simp] theorem State.finish_ci (s : State) (n : BitVec 64) : (s.finish n).ci = s.ci := rfl
@[simp] theorem State.finish_freeCtr (s : State) (n : BitVec 64) : (s.finish n).freeCtr = s.freeCtr := rfl

/-! ### raise -/

@[simp] theorem State.raise_acc (s : State) (c : ErrClass) (n : BitVec 64) : (s.raise c n).acc = s.acc := rfl
@[simp] theorem State.raise_nb (s : State) (c : ErrClass) (n : BitVec 64) : (s.raise c n).nb = s.nb := rfl
@[simp] theorem State.raise_total (s : State) (c : ErrClass) (n : BitVec 64) : (s.raise c n).total = s.total := rfl
@[simp] theorem State.raise_outp (s : State) (c : ErrClass) (n : BitVec 64) : (s.raise c n).outp = s.outp := rfl
@[simp] theorem State.raise_cb (s : State) (c : ErrClass) (n : BitVec 64) : (s.raise c n).cb = s.cb := rfl
@[simp] theorem State.raise_cbn (s : State) (c : ErrClass) (n : BitVec 64) : (s.raise c n).cbn = s.cbn := rfl
@[simp] theorem State.raise_hb (s : State) (c : ErrClass) (n : BitVec 64) : (s.raise c n).hb = s.hb := rfl
@[simp] theorem State.raise_crc (s : State) (c : ErrClass) (n : BitVec 64) : (s.raise c n).crc = s.crc := rfl
@[simp] theorem State.raise_tgl (s : State) (c : ErrClass) (n : BitVec 64) : (s.raise c n).tgl = s.tgl := rfl
@[simp] theorem State.raise_err (s : State) (c : ErrClass) (n : BitVec 64) : (s.raise c n).err = (s.err || c.latches) := rfl
@[simp] theorem State.raise_fin (s : State) (c : ErrClass) (n : BitVec 64) : (s.raise c n).fin = s.fin := rfl
@[simp] theorem State.raise_fault (s : State) (c : ErrClass) (n : BitVec 64) : (s.raise c n).fault = s.fault := rfl
@[simp] theorem State.raise_closed (s : State) (c : ErrClass) (n : BitVec 64) : (s.raise c n).closed = s.closed := rfl
@[simp] theorem State.raise_nodev (s : State) (c : ErrClass) (n : BitVec 64) : (s.raise c n).nodev = s.nodev := rfl
@[simp] theorem State.raise_bound (s : State) (c : ErrClass) (n : BitVec 64) : (s.raise c n).bound = s.bound := rfl
@[simp] theorem State.raise_conv (s : State) (c : ErrClass) (n : BitVec 64) : (s.raise c n).conv = s.conv := rfl
@[simp] theorem State.raise_upc (s : State) (c : ErrClass) (n : BitVec 64) : (s.raise c n).upc = Upc.idle := rfl
@[simp] theorem State.raise_eclass (s : State) (c : ErrClass) (n : BitVec 64) : (s.raise c n).eclass = c.code := rfl
@[simp] theorem State.raise_hwstatus (s : State) (c : ErrClass) (n : BitVec 64) : (s.raise c n).hwstatus = (if c = .hw then s.cr.status else 0) := rfl
@[simp] theorem State.raise_hwerr (s : State) (c : ErrClass) (n : BitVec 64) : (s.raise c n).hwerr = (if c = .hw then s.cr.error else 0) := rfl
@[simp] theorem State.raise_count (s : State) (c : ErrClass) (n : BitVec 64) : (s.raise c n).count = n := rfl
@[simp] theorem State.raise_maxxfer (s : State) (c : ErrClass) (n : BitVec 64) : (s.raise c n).maxxfer = s.maxxfer := rfl
@[simp] theorem State.raise_cmd (s : State) (c : ErrClass) (n : BitVec 64) : (s.raise c n).cmd = s.cmd := rfl
@[simp] theorem State.raise_rtotal (s : State) (c : ErrClass) (n : BitVec 64) : (s.raise c n).rtotal = s.rtotal := rfl
@[simp] theorem State.raise_work (s : State) (c : ErrClass) (n : BitVec 64) : (s.raise c n).work = s.work := rfl
@[simp] theorem State.raise_inMem (s : State) (c : ErrClass) (n : BitVec 64) : (s.raise c n).inMem = s.inMem := rfl
@[simp] theorem State.raise_aecs0 (s : State) (c : ErrClass) (n : BitVec 64) : (s.raise c n).aecs0 = s.aecs0 := rfl
@[simp] theorem State.raise_aecs1 (s : State) (c : ErrClass) (n : BitVec 64) : (s.raise c n).aecs1 = s.aecs1 := rfl
@[simp] theorem State.raise_out (s : State) (c : ErrClass) (n : BitVec 64) : (s.raise c n).out = s.out := rfl
@[simp] theorem State.raise_cr (s : State) (c : ErrClass) (n : BitVec 64) : (s.raise c n).cr = s.cr := rfl
@[simp] theorem State.raise_submitFailed (s : State) (c : ErrClass) (n : BitVec 64) : (s.raise c n).submitFailed = s.submitFailed := rfl
@[simp] theorem State.raise_sink (s : State) (c : ErrClass) (n : BitVec 64) : (s.raise c n).sink = s.sink := rfl
@[simp] theorem State.raise_released (s : State) (c : ErrClass) (n : BitVec 64) : (s.raise c n).released = s.released := rfl
@[simp] theorem State.raise_src (s : State) (c : ErrClass) (n : BitVec 64) : (s.raise c n).src = s.src := rfl
@[simp] theorem State.raise_desc (s : State) (c : ErrClass) (n : BitVec 64) : (s.raise c n).desc = s.desc := rfl
@[simp] theorem State.raise_par (s : State) (c : ErrClass) (n : BitVec 64) : (s.raise c n).par = s.par := rfl
@[simp] theorem State.raise_script (s : State) (c : ErrClass) (n : BitVec 64) : (s.raise c n).script = s.script := rfl
@[simp] theorem State.raise_xferQ (s : State) (c : ErrClass) (n : BitVec 64) : (s.raise c n).xferQ = s.xferQ := rfl
@[simp] theorem State.raise_jobQ (s : State) (c : ErrClass) (n : BitVec 64) : (s.raise c n).jobQ = s.jobQ := rfl
@[simp] theorem State.raise_sinkQ (s : State) (c : ErrClass) (n : BitVec 64) : (s.raise c n).sinkQ = s.sinkQ := rfl
@[simp] theorem State.raise_wire (s : State) (c : ErrClass) (n : BitVec 64) : (s.raise c n).wire = s.wire := rfl
@[simp] theorem State.raise_ci (s : State) (c : ErrClass) (n : BitVec 64) : (s.raise c n).ci = s.ci := rfl
@[simp] theorem State.raise_freeCtr (s : State) (c : ErrClass) (n : BitVec 64) : (s.raise c n).freeCtr = s.freeCtr := rfl

/-! ### enterFault -/

@[simp] theorem State.enterFault_acc (s : State) (r : FaultReason) : (s.enterFault r).acc = s.acc := rfl
@[simp] theorem State.enterFault_nb (s : State) (r : FaultReason) : (s.enterFault r).nb = s.nb := rfl
@[simp] theorem State.enterFault_total (s : State) (r : FaultReason) : (s.enterFault r).total = s.total := rfl
@[simp] theorem State.enterFault_outp (s : State) (r : FaultReason) : (s.enterFault r).outp = s.outp := rfl
@[simp] theorem State.enterFault_cb (s : State) (r : FaultReason) : (s.enterFault r).cb = s.cb := rfl
@[simp] theorem State.enterFault_cbn (s : State) (r : FaultReason) : (s.enterFault r).cbn = s.cbn := rfl
@[simp] theorem State.enterFault_hb (s : State) (r : FaultReason) : (s.enterFault r).hb = s.hb := rfl
@[simp] theorem State.enterFault_crc (s : State) (r : FaultReason) : (s.enterFault r).crc = s.crc := rfl
@[simp] theorem State.enterFault_tgl (s : State) (r : FaultReason) : (s.enterFault r).tgl = s.tgl := rfl
@[simp] theorem State.enterFault_err (s : State) (r : FaultReason) : (s.enterFault r).err = s.err := rfl
@[simp] theorem State.enterFault_fin (s : State) (r : FaultReason) : (s.enterFault r).fin = s.fin := rfl
@[simp] theorem State.enterFault_fault (s : State) (r : FaultReason) : (s.enterFault r).fault = true := rfl
@[simp] theorem State.enterFault_closed (s : State) (r : FaultReason) : (s.enterFault r).closed = s.closed := rfl
@[simp] theorem State.enterFault_nodev (s : State) (r : FaultReason) : (s.enterFault r).nodev = s.nodev := rfl
@[simp] theorem State.enterFault_bound (s : State) (r : FaultReason) : (s.enterFault r).bound = s.bound := rfl
@[simp] theorem State.enterFault_conv (s : State) (r : FaultReason) : (s.enterFault r).conv = s.conv := rfl
@[simp] theorem State.enterFault_upc (s : State) (r : FaultReason) : (s.enterFault r).upc = Upc.faulted := rfl
@[simp] theorem State.enterFault_eclass (s : State) (r : FaultReason) : (s.enterFault r).eclass = s.eclass := rfl
@[simp] theorem State.enterFault_hwstatus (s : State) (r : FaultReason) : (s.enterFault r).hwstatus = s.hwstatus := rfl
@[simp] theorem State.enterFault_hwerr (s : State) (r : FaultReason) : (s.enterFault r).hwerr = s.hwerr := rfl
@[simp] theorem State.enterFault_count (s : State) (r : FaultReason) : (s.enterFault r).count = s.count := rfl
@[simp] theorem State.enterFault_maxxfer (s : State) (r : FaultReason) : (s.enterFault r).maxxfer = s.maxxfer := rfl
@[simp] theorem State.enterFault_cmd (s : State) (r : FaultReason) : (s.enterFault r).cmd = s.cmd := rfl
@[simp] theorem State.enterFault_rtotal (s : State) (r : FaultReason) : (s.enterFault r).rtotal = s.rtotal := rfl
@[simp] theorem State.enterFault_work (s : State) (r : FaultReason) : (s.enterFault r).work = s.work := rfl
@[simp] theorem State.enterFault_inMem (s : State) (r : FaultReason) : (s.enterFault r).inMem = s.inMem := rfl
@[simp] theorem State.enterFault_aecs0 (s : State) (r : FaultReason) : (s.enterFault r).aecs0 = s.aecs0 := rfl
@[simp] theorem State.enterFault_aecs1 (s : State) (r : FaultReason) : (s.enterFault r).aecs1 = s.aecs1 := rfl
@[simp] theorem State.enterFault_out (s : State) (r : FaultReason) : (s.enterFault r).out = s.out := rfl
@[simp] theorem State.enterFault_cr (s : State) (r : FaultReason) : (s.enterFault r).cr = s.cr := rfl
@[simp] theorem State.enterFault_submitFailed (s : State) (r : FaultReason) : (s.enterFault r).submitFailed = s.submitFailed := rfl
@[simp] theorem State.enterFault_sink (s : State) (r : FaultReason) : (s.enterFault r).sink = s.sink := rfl
@[simp] theorem State.enterFault_released (s : State) (r : FaultReason) : (s.enterFault r).released = s.released := rfl
@[simp] theorem State.enterFault_src (s : State) (r : FaultReason) : (s.enterFault r).src = s.src := rfl
@[simp] theorem State.enterFault_desc (s : State) (r : FaultReason) : (s.enterFault r).desc = s.desc := rfl
@[simp] theorem State.enterFault_par (s : State) (r : FaultReason) : (s.enterFault r).par = s.par := rfl
@[simp] theorem State.enterFault_script (s : State) (r : FaultReason) : (s.enterFault r).script = s.script := rfl
@[simp] theorem State.enterFault_xferQ (s : State) (r : FaultReason) : (s.enterFault r).xferQ = s.xferQ := rfl
@[simp] theorem State.enterFault_jobQ (s : State) (r : FaultReason) : (s.enterFault r).jobQ = s.jobQ := rfl
@[simp] theorem State.enterFault_sinkQ (s : State) (r : FaultReason) : (s.enterFault r).sinkQ = s.sinkQ := rfl
@[simp] theorem State.enterFault_wire (s : State) (r : FaultReason) : (s.enterFault r).wire = s.wire := rfl
@[simp] theorem State.enterFault_ci (s : State) (r : FaultReason) : (s.enterFault r).ci = s.ci := rfl
@[simp] theorem State.enterFault_freeCtr (s : State) (r : FaultReason) : (s.enterFault r).freeCtr = s.freeCtr := rfl

/-! ### clearCarry -/

@[simp] theorem State.clearCarry_acc (s : State) : (s.clearCarry).acc = s.acc := rfl
@[simp] theorem State.clearCarry_nb (s : State) : (s.clearCarry).nb = s.nb := rfl
@[simp] theorem State.clearCarry_total (s : State) : (s.clearCarry).total = s.total := rfl
@[simp] theorem State.clearCarry_outp (s : State) : (s.clearCarry).outp = s.outp := rfl
@[simp] theorem State.clearCarry_cb (s : State) : (s.clearCarry).cb = 0 := rfl
@[simp] theorem State.clearCarry_cbn (s : State) : (s.clearCarry).cbn = 0 := rfl
@[simp] theorem State.clearCarry_hb (s : State) : (s.clearCarry).hb = s.hb := rfl
@[simp] theorem State.clearCarry_crc (s : State) : (s.clearCarry).crc = s.crc := rfl
@[simp] theorem State.clearCarry_tgl (s : State) : (s.clearCarry).tgl = s.tgl := rfl
@[simp] theorem State.clearCarry_err (s : State) : (s.clearCarry).err = s.err := rfl
@[simp] theorem State.clearCarry_fin (s : State) : (s.clearCarry).fin = s.fin := rfl
@[simp] theorem State.clearCarry_fault (s : State) : (s.clearCarry).fault = s.fault := rfl
@[simp] theorem State.clearCarry_closed (s : State) : (s.clearCarry).closed = s.closed := rfl
@[simp] theorem State.clearCarry_nodev (s : State) : (s.clearCarry).nodev = s.nodev := rfl
@[simp] theorem State.clearCarry_bound (s : State) : (s.clearCarry).bound = s.bound := rfl
@[simp] theorem State.clearCarry_conv (s : State) : (s.clearCarry).conv = s.conv := rfl
@[simp] theorem State.clearCarry_upc (s : State) : (s.clearCarry).upc = s.upc := rfl
@[simp] theorem State.clearCarry_eclass (s : State) : (s.clearCarry).eclass = s.eclass := rfl
@[simp] theorem State.clearCarry_hwstatus (s : State) : (s.clearCarry).hwstatus = s.hwstatus := rfl
@[simp] theorem State.clearCarry_hwerr (s : State) : (s.clearCarry).hwerr = s.hwerr := rfl
@[simp] theorem State.clearCarry_count (s : State) : (s.clearCarry).count = s.count := rfl
@[simp] theorem State.clearCarry_maxxfer (s : State) : (s.clearCarry).maxxfer = s.maxxfer := rfl
@[simp] theorem State.clearCarry_cmd (s : State) : (s.clearCarry).cmd = s.cmd := rfl
@[simp] theorem State.clearCarry_rtotal (s : State) : (s.clearCarry).rtotal = s.rtotal := rfl
@[simp] theorem State.clearCarry_work (s : State) : (s.clearCarry).work = s.work := rfl
@[simp] theorem State.clearCarry_inMem (s : State) : (s.clearCarry).inMem = s.inMem := rfl
@[simp] theorem State.clearCarry_aecs0 (s : State) : (s.clearCarry).aecs0 = s.aecs0 := rfl
@[simp] theorem State.clearCarry_aecs1 (s : State) : (s.clearCarry).aecs1 = s.aecs1 := rfl
@[simp] theorem State.clearCarry_out (s : State) : (s.clearCarry).out = s.out := rfl
@[simp] theorem State.clearCarry_cr (s : State) : (s.clearCarry).cr = s.cr := rfl
@[simp] theorem State.clearCarry_submitFailed (s : State) : (s.clearCarry).submitFailed = s.submitFailed := rfl
@[simp] theorem State.clearCarry_sink (s : State) : (s.clearCarry).sink = s.sink := rfl
@[simp] theorem State.clearCarry_released (s : State) : (s.clearCarry).released = s.released := rfl
@[simp] theorem State.clearCarry_src (s : State) : (s.clearCarry).src = s.src := rfl
@[simp] theorem State.clearCarry_desc (s : State) : (s.clearCarry).desc = s.desc := rfl
@[simp] theorem State.clearCarry_par (s : State) : (s.clearCarry).par = s.par := rfl
@[simp] theorem State.clearCarry_script (s : State) : (s.clearCarry).script = s.script := rfl
@[simp] theorem State.clearCarry_xferQ (s : State) : (s.clearCarry).xferQ = s.xferQ := rfl
@[simp] theorem State.clearCarry_jobQ (s : State) : (s.clearCarry).jobQ = s.jobQ := rfl
@[simp] theorem State.clearCarry_sinkQ (s : State) : (s.clearCarry).sinkQ = s.sinkQ := rfl
@[simp] theorem State.clearCarry_wire (s : State) : (s.clearCarry).wire = s.wire := rfl
@[simp] theorem State.clearCarry_ci (s : State) : (s.clearCarry).ci = s.ci := rfl
@[simp] theorem State.clearCarry_freeCtr (s : State) : (s.clearCarry).freeCtr = s.freeCtr := rfl

/-! ### takePath -/

@[simp] theorem State.takePath_acc (s : State) (p : Path) (u : BitVec 8) : (s.takePath p u).acc = s.acc := rfl
@[simp] theorem State.takePath_nb (s : State) (p : Path) (u : BitVec 8) : (s.takePath p u).nb = s.nb := rfl
@[simp] theorem State.takePath_total (s : State) (p : Path) (u : BitVec 8) : (s.takePath p u).total = s.total := rfl
@[simp] theorem State.takePath_outp (s : State) (p : Path) (u : BitVec 8) : (s.takePath p u).outp = s.outp := rfl
@[simp] theorem State.takePath_cb (s : State) (p : Path) (u : BitVec 8) : (s.takePath p u).cb = s.cb := rfl
@[simp] theorem State.takePath_cbn (s : State) (p : Path) (u : BitVec 8) : (s.takePath p u).cbn = s.cbn := rfl
@[simp] theorem State.takePath_hb (s : State) (p : Path) (u : BitVec 8) : (s.takePath p u).hb = s.hb := rfl
@[simp] theorem State.takePath_crc (s : State) (p : Path) (u : BitVec 8) : (s.takePath p u).crc = s.crc := rfl
@[simp] theorem State.takePath_tgl (s : State) (p : Path) (u : BitVec 8) : (s.takePath p u).tgl = s.tgl := rfl
@[simp] theorem State.takePath_err (s : State) (p : Path) (u : BitVec 8) : (s.takePath p u).err = s.err := rfl
@[simp] theorem State.takePath_fin (s : State) (p : Path) (u : BitVec 8) : (s.takePath p u).fin = s.fin := rfl
@[simp] theorem State.takePath_fault (s : State) (p : Path) (u : BitVec 8) : (s.takePath p u).fault = s.fault := rfl
@[simp] theorem State.takePath_closed (s : State) (p : Path) (u : BitVec 8) : (s.takePath p u).closed = s.closed := rfl
@[simp] theorem State.takePath_nodev (s : State) (p : Path) (u : BitVec 8) : (s.takePath p u).nodev = s.nodev := rfl
@[simp] theorem State.takePath_bound (s : State) (p : Path) (u : BitVec 8) : (s.takePath p u).bound = s.bound := rfl
@[simp] theorem State.takePath_conv (s : State) (p : Path) (u : BitVec 8) : (s.takePath p u).conv = s.conv := rfl
@[simp] theorem State.takePath_upc (s : State) (p : Path) (u : BitVec 8) : (s.takePath p u).upc = u := rfl
@[simp] theorem State.takePath_eclass (s : State) (p : Path) (u : BitVec 8) : (s.takePath p u).eclass = s.eclass := rfl
@[simp] theorem State.takePath_hwstatus (s : State) (p : Path) (u : BitVec 8) : (s.takePath p u).hwstatus = s.hwstatus := rfl
@[simp] theorem State.takePath_hwerr (s : State) (p : Path) (u : BitVec 8) : (s.takePath p u).hwerr = s.hwerr := rfl
@[simp] theorem State.takePath_count (s : State) (p : Path) (u : BitVec 8) : (s.takePath p u).count = s.count := rfl
@[simp] theorem State.takePath_maxxfer (s : State) (p : Path) (u : BitVec 8) : (s.takePath p u).maxxfer = s.maxxfer := rfl
@[simp] theorem State.takePath_cmd (s : State) (p : Path) (u : BitVec 8) : (s.takePath p u).cmd = s.cmd := rfl
@[simp] theorem State.takePath_rtotal (s : State) (p : Path) (u : BitVec 8) : (s.takePath p u).rtotal = s.rtotal := rfl
@[simp] theorem State.takePath_work (s : State) (p : Path) (u : BitVec 8) : (s.takePath p u).work = { s.work with path := p } := rfl
@[simp] theorem State.takePath_inMem (s : State) (p : Path) (u : BitVec 8) : (s.takePath p u).inMem = s.inMem := rfl
@[simp] theorem State.takePath_aecs0 (s : State) (p : Path) (u : BitVec 8) : (s.takePath p u).aecs0 = s.aecs0 := rfl
@[simp] theorem State.takePath_aecs1 (s : State) (p : Path) (u : BitVec 8) : (s.takePath p u).aecs1 = s.aecs1 := rfl
@[simp] theorem State.takePath_out (s : State) (p : Path) (u : BitVec 8) : (s.takePath p u).out = s.out := rfl
@[simp] theorem State.takePath_cr (s : State) (p : Path) (u : BitVec 8) : (s.takePath p u).cr = s.cr := rfl
@[simp] theorem State.takePath_submitFailed (s : State) (p : Path) (u : BitVec 8) : (s.takePath p u).submitFailed = s.submitFailed := rfl
@[simp] theorem State.takePath_sink (s : State) (p : Path) (u : BitVec 8) : (s.takePath p u).sink = s.sink := rfl
@[simp] theorem State.takePath_released (s : State) (p : Path) (u : BitVec 8) : (s.takePath p u).released = s.released := rfl
@[simp] theorem State.takePath_src (s : State) (p : Path) (u : BitVec 8) : (s.takePath p u).src = s.src := rfl
@[simp] theorem State.takePath_desc (s : State) (p : Path) (u : BitVec 8) : (s.takePath p u).desc = s.desc := rfl
@[simp] theorem State.takePath_par (s : State) (p : Path) (u : BitVec 8) : (s.takePath p u).par = s.par := rfl
@[simp] theorem State.takePath_script (s : State) (p : Path) (u : BitVec 8) : (s.takePath p u).script = s.script := rfl
@[simp] theorem State.takePath_xferQ (s : State) (p : Path) (u : BitVec 8) : (s.takePath p u).xferQ = s.xferQ := rfl
@[simp] theorem State.takePath_jobQ (s : State) (p : Path) (u : BitVec 8) : (s.takePath p u).jobQ = s.jobQ := rfl
@[simp] theorem State.takePath_sinkQ (s : State) (p : Path) (u : BitVec 8) : (s.takePath p u).sinkQ = s.sinkQ := rfl
@[simp] theorem State.takePath_wire (s : State) (p : Path) (u : BitVec 8) : (s.takePath p u).wire = s.wire := rfl
@[simp] theorem State.takePath_ci (s : State) (p : Path) (u : BitVec 8) : (s.takePath p u).ci = s.ci := rfl
@[simp] theorem State.takePath_freeCtr (s : State) (p : Path) (u : BitVec 8) : (s.takePath p u).freeCtr = s.freeCtr := rfl

/-! ### takeCommand -/

@[simp] theorem State.takeCommand_acc (s : State) (w : Word) : (s.takeCommand w).acc = s.acc := rfl
@[simp] theorem State.takeCommand_nb (s : State) (w : Word) : (s.takeCommand w).nb = s.nb := rfl
@[simp] theorem State.takeCommand_total (s : State) (w : Word) : (s.takeCommand w).total = s.total := rfl
@[simp] theorem State.takeCommand_outp (s : State) (w : Word) : (s.takeCommand w).outp = s.outp := rfl
@[simp] theorem State.takeCommand_cb (s : State) (w : Word) : (s.takeCommand w).cb = s.cb := rfl
@[simp] theorem State.takeCommand_cbn (s : State) (w : Word) : (s.takeCommand w).cbn = s.cbn := rfl
@[simp] theorem State.takeCommand_hb (s : State) (w : Word) : (s.takeCommand w).hb = s.hb := rfl
@[simp] theorem State.takeCommand_crc (s : State) (w : Word) : (s.takeCommand w).crc = s.crc := rfl
@[simp] theorem State.takeCommand_tgl (s : State) (w : Word) : (s.takeCommand w).tgl = s.tgl := rfl
@[simp] theorem State.takeCommand_err (s : State) (w : Word) : (s.takeCommand w).err = s.err := rfl
@[simp] theorem State.takeCommand_fin (s : State) (w : Word) : (s.takeCommand w).fin = s.fin := rfl
@[simp] theorem State.takeCommand_fault (s : State) (w : Word) : (s.takeCommand w).fault = s.fault := rfl
@[simp] theorem State.takeCommand_closed (s : State) (w : Word) : (s.takeCommand w).closed = s.closed := rfl
@[simp] theorem State.takeCommand_nodev (s : State) (w : Word) : (s.takeCommand w).nodev = s.nodev := rfl
@[simp] theorem State.takeCommand_bound (s : State) (w : Word) : (s.takeCommand w).bound = s.bound := rfl
@[simp] theorem State.takeCommand_conv (s : State) (w : Word) : (s.takeCommand w).conv = s.conv := rfl
@[simp] theorem State.takeCommand_upc (s : State) (w : Word) : (s.takeCommand w).upc = Upc.check := rfl
@[simp] theorem State.takeCommand_eclass (s : State) (w : Word) : (s.takeCommand w).eclass = s.eclass := rfl
@[simp] theorem State.takeCommand_hwstatus (s : State) (w : Word) : (s.takeCommand w).hwstatus = s.hwstatus := rfl
@[simp] theorem State.takeCommand_hwerr (s : State) (w : Word) : (s.takeCommand w).hwerr = s.hwerr := rfl
@[simp] theorem State.takeCommand_count (s : State) (w : Word) : (s.takeCommand w).count = s.count := rfl
@[simp] theorem State.takeCommand_maxxfer (s : State) (w : Word) : (s.takeCommand w).maxxfer = s.maxxfer := rfl
@[simp] theorem State.takeCommand_cmd (s : State) (w : Word) : (s.takeCommand w).cmd = w := rfl
@[simp] theorem State.takeCommand_rtotal (s : State) (w : Word) : (s.takeCommand w).rtotal = s.rtotal := rfl
@[simp] theorem State.takeCommand_work (s : State) (w : Word) : (s.takeCommand w).work = s.work := rfl
@[simp] theorem State.takeCommand_inMem (s : State) (w : Word) : (s.takeCommand w).inMem = s.inMem := rfl
@[simp] theorem State.takeCommand_aecs0 (s : State) (w : Word) : (s.takeCommand w).aecs0 = s.aecs0 := rfl
@[simp] theorem State.takeCommand_aecs1 (s : State) (w : Word) : (s.takeCommand w).aecs1 = s.aecs1 := rfl
@[simp] theorem State.takeCommand_out (s : State) (w : Word) : (s.takeCommand w).out = s.out := rfl
@[simp] theorem State.takeCommand_cr (s : State) (w : Word) : (s.takeCommand w).cr = s.cr := rfl
@[simp] theorem State.takeCommand_submitFailed (s : State) (w : Word) : (s.takeCommand w).submitFailed = s.submitFailed := rfl
@[simp] theorem State.takeCommand_sink (s : State) (w : Word) : (s.takeCommand w).sink = s.sink := rfl
@[simp] theorem State.takeCommand_released (s : State) (w : Word) : (s.takeCommand w).released = s.released := rfl
@[simp] theorem State.takeCommand_src (s : State) (w : Word) : (s.takeCommand w).src = s.src := rfl
@[simp] theorem State.takeCommand_desc (s : State) (w : Word) : (s.takeCommand w).desc = s.desc := rfl
@[simp] theorem State.takeCommand_par (s : State) (w : Word) : (s.takeCommand w).par = s.par := rfl
@[simp] theorem State.takeCommand_script (s : State) (w : Word) : (s.takeCommand w).script = s.script := rfl
@[simp] theorem State.takeCommand_xferQ (s : State) (w : Word) : (s.takeCommand w).xferQ = s.xferQ := rfl
@[simp] theorem State.takeCommand_jobQ (s : State) (w : Word) : (s.takeCommand w).jobQ = s.jobQ := rfl
@[simp] theorem State.takeCommand_sinkQ (s : State) (w : Word) : (s.takeCommand w).sinkQ = s.sinkQ := rfl
@[simp] theorem State.takeCommand_wire (s : State) (w : Word) : (s.takeCommand w).wire = s.wire := rfl
@[simp] theorem State.takeCommand_ci (s : State) (w : Word) : (s.takeCommand w).ci = s.ci := rfl
@[simp] theorem State.takeCommand_freeCtr (s : State) (w : Word) : (s.takeCommand w).freeCtr = s.freeCtr := rfl

/-! ### setCur -/

@[simp] theorem State.setCur_acc (s : State) (a : Aecs) : (s.setCur a).acc = s.acc := by
  unfold State.setCur State.setAecs; split <;> rfl
@[simp] theorem State.setCur_nb (s : State) (a : Aecs) : (s.setCur a).nb = s.nb := by
  unfold State.setCur State.setAecs; split <;> rfl
@[simp] theorem State.setCur_total (s : State) (a : Aecs) : (s.setCur a).total = s.total := by
  unfold State.setCur State.setAecs; split <;> rfl
@[simp] theorem State.setCur_outp (s : State) (a : Aecs) : (s.setCur a).outp = s.outp := by
  unfold State.setCur State.setAecs; split <;> rfl
@[simp] theorem State.setCur_cb (s : State) (a : Aecs) : (s.setCur a).cb = s.cb := by
  unfold State.setCur State.setAecs; split <;> rfl
@[simp] theorem State.setCur_cbn (s : State) (a : Aecs) : (s.setCur a).cbn = s.cbn := by
  unfold State.setCur State.setAecs; split <;> rfl
@[simp] theorem State.setCur_hb (s : State) (a : Aecs) : (s.setCur a).hb = s.hb := by
  unfold State.setCur State.setAecs; split <;> rfl
@[simp] theorem State.setCur_crc (s : State) (a : Aecs) : (s.setCur a).crc = s.crc := by
  unfold State.setCur State.setAecs; split <;> rfl
@[simp] theorem State.setCur_tgl (s : State) (a : Aecs) : (s.setCur a).tgl = s.tgl := by
  unfold State.setCur State.setAecs; split <;> rfl
@[simp] theorem State.setCur_err (s : State) (a : Aecs) : (s.setCur a).err = s.err := by
  unfold State.setCur State.setAecs; split <;> rfl
@[simp] theorem State.setCur_fin (s : State) (a : Aecs) : (s.setCur a).fin = s.fin := by
  unfold State.setCur State.setAecs; split <;> rfl
@[simp] theorem State.setCur_fault (s : State) (a : Aecs) : (s.setCur a).fault = s.fault := by
  unfold State.setCur State.setAecs; split <;> rfl
@[simp] theorem State.setCur_closed (s : State) (a : Aecs) : (s.setCur a).closed = s.closed := by
  unfold State.setCur State.setAecs; split <;> rfl
@[simp] theorem State.setCur_nodev (s : State) (a : Aecs) : (s.setCur a).nodev = s.nodev := by
  unfold State.setCur State.setAecs; split <;> rfl
@[simp] theorem State.setCur_bound (s : State) (a : Aecs) : (s.setCur a).bound = s.bound := by
  unfold State.setCur State.setAecs; split <;> rfl
@[simp] theorem State.setCur_conv (s : State) (a : Aecs) : (s.setCur a).conv = s.conv := by
  unfold State.setCur State.setAecs; split <;> rfl
@[simp] theorem State.setCur_upc (s : State) (a : Aecs) : (s.setCur a).upc = s.upc := by
  unfold State.setCur State.setAecs; split <;> rfl
@[simp] theorem State.setCur_eclass (s : State) (a : Aecs) : (s.setCur a).eclass = s.eclass := by
  unfold State.setCur State.setAecs; split <;> rfl
@[simp] theorem State.setCur_hwstatus (s : State) (a : Aecs) : (s.setCur a).hwstatus = s.hwstatus := by
  unfold State.setCur State.setAecs; split <;> rfl
@[simp] theorem State.setCur_hwerr (s : State) (a : Aecs) : (s.setCur a).hwerr = s.hwerr := by
  unfold State.setCur State.setAecs; split <;> rfl
@[simp] theorem State.setCur_count (s : State) (a : Aecs) : (s.setCur a).count = s.count := by
  unfold State.setCur State.setAecs; split <;> rfl
@[simp] theorem State.setCur_maxxfer (s : State) (a : Aecs) : (s.setCur a).maxxfer = s.maxxfer := by
  unfold State.setCur State.setAecs; split <;> rfl
@[simp] theorem State.setCur_cmd (s : State) (a : Aecs) : (s.setCur a).cmd = s.cmd := by
  unfold State.setCur State.setAecs; split <;> rfl
@[simp] theorem State.setCur_rtotal (s : State) (a : Aecs) : (s.setCur a).rtotal = s.rtotal := by
  unfold State.setCur State.setAecs; split <;> rfl
@[simp] theorem State.setCur_work (s : State) (a : Aecs) : (s.setCur a).work = s.work := by
  unfold State.setCur State.setAecs; split <;> rfl
@[simp] theorem State.setCur_inMem (s : State) (a : Aecs) : (s.setCur a).inMem = s.inMem := by
  unfold State.setCur State.setAecs; split <;> rfl
@[simp] theorem State.setCur_out (s : State) (a : Aecs) : (s.setCur a).out = s.out := by
  unfold State.setCur State.setAecs; split <;> rfl
@[simp] theorem State.setCur_cr (s : State) (a : Aecs) : (s.setCur a).cr = s.cr := by
  unfold State.setCur State.setAecs; split <;> rfl
@[simp] theorem State.setCur_submitFailed (s : State) (a : Aecs) : (s.setCur a).submitFailed = s.submitFailed := by
  unfold State.setCur State.setAecs; split <;> rfl
@[simp] theorem State.setCur_sink (s : State) (a : Aecs) : (s.setCur a).sink = s.sink := by
  unfold State.setCur State.setAecs; split <;> rfl
@[simp] theorem State.setCur_released (s : State) (a : Aecs) : (s.setCur a).released = s.released := by
  unfold State.setCur State.setAecs; split <;> rfl
@[simp] theorem State.setCur_src (s : State) (a : Aecs) : (s.setCur a).src = s.src := by
  unfold State.setCur State.setAecs; split <;> rfl
@[simp] theorem State.setCur_desc (s : State) (a : Aecs) : (s.setCur a).desc = s.desc := by
  unfold State.setCur State.setAecs; split <;> rfl
@[simp] theorem State.setCur_par (s : State) (a : Aecs) : (s.setCur a).par = s.par := by
  unfold State.setCur State.setAecs; split <;> rfl
@[simp] theorem State.setCur_script (s : State) (a : Aecs) : (s.setCur a).script = s.script := by
  unfold State.setCur State.setAecs; split <;> rfl
@[simp] theorem State.setCur_xferQ (s : State) (a : Aecs) : (s.setCur a).xferQ = s.xferQ := by
  unfold State.setCur State.setAecs; split <;> rfl
@[simp] theorem State.setCur_jobQ (s : State) (a : Aecs) : (s.setCur a).jobQ = s.jobQ := by
  unfold State.setCur State.setAecs; split <;> rfl
@[simp] theorem State.setCur_sinkQ (s : State) (a : Aecs) : (s.setCur a).sinkQ = s.sinkQ := by
  unfold State.setCur State.setAecs; split <;> rfl
@[simp] theorem State.setCur_wire (s : State) (a : Aecs) : (s.setCur a).wire = s.wire := by
  unfold State.setCur State.setAecs; split <;> rfl
@[simp] theorem State.setCur_ci (s : State) (a : Aecs) : (s.setCur a).ci = s.ci := by
  unfold State.setCur State.setAecs; split <;> rfl
@[simp] theorem State.setCur_freeCtr (s : State) (a : Aecs) : (s.setCur a).freeCtr = s.freeCtr := by
  unfold State.setCur State.setAecs; split <;> rfl

/-! ### setAecs -/

@[simp] theorem State.setAecs_acc (s : State) (k : Bool) (a : Aecs) : (s.setAecs k a).acc = s.acc := by cases k <;> rfl
@[simp] theorem State.setAecs_nb (s : State) (k : Bool) (a : Aecs) : (s.setAecs k a).nb = s.nb := by cases k <;> rfl
@[simp] theorem State.setAecs_total (s : State) (k : Bool) (a : Aecs) : (s.setAecs k a).total = s.total := by cases k <;> rfl
@[simp] theorem State.setAecs_outp (s : State) (k : Bool) (a : Aecs) : (s.setAecs k a).outp = s.outp := by cases k <;> rfl
@[simp] theorem State.setAecs_cb (s : State) (k : Bool) (a : Aecs) : (s.setAecs k a).cb = s.cb := by cases k <;> rfl
@[simp] theorem State.setAecs_cbn (s : State) (k : Bool) (a : Aecs) : (s.setAecs k a).cbn = s.cbn := by cases k <;> rfl
@[simp] theorem State.setAecs_hb (s : State) (k : Bool) (a : Aecs) : (s.setAecs k a).hb = s.hb := by cases k <;> rfl
@[simp] theorem State.setAecs_crc (s : State) (k : Bool) (a : Aecs) : (s.setAecs k a).crc = s.crc := by cases k <;> rfl
@[simp] theorem State.setAecs_tgl (s : State) (k : Bool) (a : Aecs) : (s.setAecs k a).tgl = s.tgl := by cases k <;> rfl
@[simp] theorem State.setAecs_err (s : State) (k : Bool) (a : Aecs) : (s.setAecs k a).err = s.err := by cases k <;> rfl
@[simp] theorem State.setAecs_fin (s : State) (k : Bool) (a : Aecs) : (s.setAecs k a).fin = s.fin := by cases k <;> rfl
@[simp] theorem State.setAecs_fault (s : State) (k : Bool) (a : Aecs) : (s.setAecs k a).fault = s.fault := by cases k <;> rfl
@[simp] theorem State.setAecs_closed (s : State) (k : Bool) (a : Aecs) : (s.setAecs k a).closed = s.closed := by cases k <;> rfl
@[simp] theorem State.setAecs_nodev (s : State) (k : Bool) (a : Aecs) : (s.setAecs k a).nodev = s.nodev := by cases k <;> rfl
@[simp] theorem State.setAecs_bound (s : State) (k : Bool) (a : Aecs) : (s.setAecs k a).bound = s.bound := by cases k <;> rfl
@[simp] theorem State.setAecs_conv (s : State) (k : Bool) (a : Aecs) : (s.setAecs k a).conv = s.conv := by cases k <;> rfl
@[simp] theorem State.setAecs_upc (s : State) (k : Bool) (a : Aecs) : (s.setAecs k a).upc = s.upc := by cases k <;> rfl
@[simp] theorem State.setAecs_eclass (s : State) (k : Bool) (a : Aecs) : (s.setAecs k a).eclass = s.eclass := by cases k <;> rfl
@[simp] theorem State.setAecs_hwstatus (s : State) (k : Bool) (a : Aecs) : (s.setAecs k a).hwstatus = s.hwstatus := by cases k <;> rfl
@[simp] theorem State.setAecs_hwerr (s : State) (k : Bool) (a : Aecs) : (s.setAecs k a).hwerr = s.hwerr := by cases k <;> rfl
@[simp] theorem State.setAecs_count (s : State) (k : Bool) (a : Aecs) : (s.setAecs k a).count = s.count := by cases k <;> rfl
@[simp] theorem State.setAecs_maxxfer (s : State) (k : Bool) (a : Aecs) : (s.setAecs k a).maxxfer = s.maxxfer := by cases k <;> rfl
@[simp] theorem State.setAecs_cmd (s : State) (k : Bool) (a : Aecs) : (s.setAecs k a).cmd = s.cmd := by cases k <;> rfl
@[simp] theorem State.setAecs_rtotal (s : State) (k : Bool) (a : Aecs) : (s.setAecs k a).rtotal = s.rtotal := by cases k <;> rfl
@[simp] theorem State.setAecs_work (s : State) (k : Bool) (a : Aecs) : (s.setAecs k a).work = s.work := by cases k <;> rfl
@[simp] theorem State.setAecs_inMem (s : State) (k : Bool) (a : Aecs) : (s.setAecs k a).inMem = s.inMem := by cases k <;> rfl
@[simp] theorem State.setAecs_out (s : State) (k : Bool) (a : Aecs) : (s.setAecs k a).out = s.out := by cases k <;> rfl
@[simp] theorem State.setAecs_cr (s : State) (k : Bool) (a : Aecs) : (s.setAecs k a).cr = s.cr := by cases k <;> rfl
@[simp] theorem State.setAecs_submitFailed (s : State) (k : Bool) (a : Aecs) : (s.setAecs k a).submitFailed = s.submitFailed := by cases k <;> rfl
@[simp] theorem State.setAecs_sink (s : State) (k : Bool) (a : Aecs) : (s.setAecs k a).sink = s.sink := by cases k <;> rfl
@[simp] theorem State.setAecs_released (s : State) (k : Bool) (a : Aecs) : (s.setAecs k a).released = s.released := by cases k <;> rfl
@[simp] theorem State.setAecs_src (s : State) (k : Bool) (a : Aecs) : (s.setAecs k a).src = s.src := by cases k <;> rfl
@[simp] theorem State.setAecs_desc (s : State) (k : Bool) (a : Aecs) : (s.setAecs k a).desc = s.desc := by cases k <;> rfl
@[simp] theorem State.setAecs_par (s : State) (k : Bool) (a : Aecs) : (s.setAecs k a).par = s.par := by cases k <;> rfl
@[simp] theorem State.setAecs_script (s : State) (k : Bool) (a : Aecs) : (s.setAecs k a).script = s.script := by cases k <;> rfl
@[simp] theorem State.setAecs_xferQ (s : State) (k : Bool) (a : Aecs) : (s.setAecs k a).xferQ = s.xferQ := by cases k <;> rfl
@[simp] theorem State.setAecs_jobQ (s : State) (k : Bool) (a : Aecs) : (s.setAecs k a).jobQ = s.jobQ := by cases k <;> rfl
@[simp] theorem State.setAecs_sinkQ (s : State) (k : Bool) (a : Aecs) : (s.setAecs k a).sinkQ = s.sinkQ := by cases k <;> rfl
@[simp] theorem State.setAecs_wire (s : State) (k : Bool) (a : Aecs) : (s.setAecs k a).wire = s.wire := by cases k <;> rfl
@[simp] theorem State.setAecs_ci (s : State) (k : Bool) (a : Aecs) : (s.setAecs k a).ci = s.ci := by cases k <;> rfl
@[simp] theorem State.setAecs_freeCtr (s : State) (k : Bool) (a : Aecs) : (s.setAecs k a).freeCtr = s.freeCtr := by cases k <;> rfl

@[simp] theorem State.aecs_setAecs_same (s : State) (k : Bool) (a : Aecs) : (s.setAecs k a).aecs k = a := by cases k <;> rfl

@[simp] theorem State.aecs_setAecs_other (s : State) (k : Bool) (a : Aecs) : (s.setAecs k a).aecs (!k) = s.aecs (!k) := by
  cases k <;> rfl

@[simp] theorem State.cur_setCur (s : State) (a : Aecs) : (s.setCur a).cur = a := by
  simp [State.cur, State.setCur]

@[simp] theorem State.other_setCur (s : State) (a : Aecs) : (s.setCur a).aecs (!s.tgl) = s.aecs (!s.tgl) := by
  simp [State.setCur]

/-! ### setBitWriter -/

@[simp] theorem State.setBitWriter_acc (s : State) (b : BitWriter) : (s.setBitWriter b).acc = b.acc := rfl
@[simp] theorem State.setBitWriter_nb (s : State) (b : BitWriter) : (s.setBitWriter b).nb = b.nb := rfl
@[simp] theorem State.setBitWriter_total (s : State) (b : BitWriter) : (s.setBitWriter b).total = b.total := rfl
@[simp] theorem State.setBitWriter_outp (s : State) (b : BitWriter) : (s.setBitWriter b).outp = b.outp := rfl
@[simp] theorem State.setBitWriter_cb (s : State) (b : BitWriter) : (s.setBitWriter b).cb = s.cb := by
  simp [State.setBitWriter]
@[simp] theorem State.setBitWriter_cbn (s : State) (b : BitWriter) : (s.setBitWriter b).cbn = s.cbn := by
  simp [State.setBitWriter]
@[simp] theorem State.setBitWriter_hb (s : State) (b : BitWriter) : (s.setBitWriter b).hb = s.hb := by
  simp [State.setBitWriter]
@[simp] theorem State.setBitWriter_crc (s : State) (b : BitWriter) : (s.setBitWriter b).crc = s.crc := by
  simp [State.setBitWriter]
@[simp] theorem State.setBitWriter_tgl (s : State) (b : BitWriter) : (s.setBitWriter b).tgl = s.tgl := by
  simp [State.setBitWriter]
@[simp] theorem State.setBitWriter_err (s : State) (b : BitWriter) : (s.setBitWriter b).err = s.err := by
  simp [State.setBitWriter]
@[simp] theorem State.setBitWriter_fin (s : State) (b : BitWriter) : (s.setBitWriter b).fin = s.fin := by
  simp [State.setBitWriter]
@[simp] theorem State.setBitWriter_fault (s : State) (b : BitWriter) : (s.setBitWriter b).fault = s.fault := by
  simp [State.setBitWriter]
@[simp] theorem State.setBitWriter_closed (s : State) (b : BitWriter) : (s.setBitWriter b).closed = s.closed := by
  simp [State.setBitWriter]
@[simp] theorem State.setBitWriter_nodev (s : State) (b : BitWriter) : (s.setBitWriter b).nodev = s.nodev := by
  simp [State.setBitWriter]
@[simp] theorem State.setBitWriter_bound (s : State) (b : BitWriter) : (s.setBitWriter b).bound = s.bound := by
  simp [State.setBitWriter]
@[simp] theorem State.setBitWriter_conv (s : State) (b : BitWriter) : (s.setBitWriter b).conv = s.conv := by
  simp [State.setBitWriter]
@[simp] theorem State.setBitWriter_upc (s : State) (b : BitWriter) : (s.setBitWriter b).upc = s.upc := by
  simp [State.setBitWriter]
@[simp] theorem State.setBitWriter_eclass (s : State) (b : BitWriter) : (s.setBitWriter b).eclass = s.eclass := by
  simp [State.setBitWriter]
@[simp] theorem State.setBitWriter_hwstatus (s : State) (b : BitWriter) : (s.setBitWriter b).hwstatus = s.hwstatus := by
  simp [State.setBitWriter]
@[simp] theorem State.setBitWriter_hwerr (s : State) (b : BitWriter) : (s.setBitWriter b).hwerr = s.hwerr := by
  simp [State.setBitWriter]
@[simp] theorem State.setBitWriter_count (s : State) (b : BitWriter) : (s.setBitWriter b).count = s.count := by
  simp [State.setBitWriter]
@[simp] theorem State.setBitWriter_maxxfer (s : State) (b : BitWriter) : (s.setBitWriter b).maxxfer = s.maxxfer := by
  simp [State.setBitWriter]
@[simp] theorem State.setBitWriter_cmd (s : State) (b : BitWriter) : (s.setBitWriter b).cmd = s.cmd := by
  simp [State.setBitWriter]
@[simp] theorem State.setBitWriter_rtotal (s : State) (b : BitWriter) : (s.setBitWriter b).rtotal = s.rtotal := by
  simp [State.setBitWriter]
@[simp] theorem State.setBitWriter_work (s : State) (b : BitWriter) : (s.setBitWriter b).work = s.work := by
  simp [State.setBitWriter]
@[simp] theorem State.setBitWriter_inMem (s : State) (b : BitWriter) : (s.setBitWriter b).inMem = s.inMem := by
  simp [State.setBitWriter]
@[simp] theorem State.setBitWriter_out (s : State) (b : BitWriter) : (s.setBitWriter b).out = s.out := by
  simp [State.setBitWriter]
@[simp] theorem State.setBitWriter_cr (s : State) (b : BitWriter) : (s.setBitWriter b).cr = s.cr := by
  simp [State.setBitWriter]
@[simp] theorem State.setBitWriter_submitFailed (s : State) (b : BitWriter) : (s.setBitWriter b).submitFailed = s.submitFailed := by
  simp [State.setBitWriter]
@[simp] theorem State.setBitWriter_sink (s : State) (b : BitWriter) : (s.setBitWriter b).sink = s.sink := by
  simp [State.setBitWriter]
@[simp] theorem State.setBitWriter_released (s : State) (b : BitWriter) : (s.setBitWriter b).released = s.released := by
  simp [State.setBitWriter]
@[simp] theorem State.setBitWriter_src (s : State) (b : BitWriter) : (s.setBitWriter b).src = s.src := by
  simp [State.setBitWriter]
@[simp] theorem State.setBitWriter_desc (s : State) (b : BitWriter) : (s.setBitWriter b).desc = s.desc := by
  simp [State.setBitWriter]
@[simp] theorem State.setBitWriter_par (s : State) (b : BitWriter) : (s.setBitWriter b).par = s.par := by
  simp [State.setBitWriter]
@[simp] theorem State.setBitWriter_script (s : State) (b : BitWriter) : (s.setBitWriter b).script = s.script := by
  simp [State.setBitWriter]
@[simp] theorem State.setBitWriter_xferQ (s : State) (b : BitWriter) : (s.setBitWriter b).xferQ = s.xferQ := by
  simp [State.setBitWriter]
@[simp] theorem State.setBitWriter_jobQ (s : State) (b : BitWriter) : (s.setBitWriter b).jobQ = s.jobQ := by
  simp [State.setBitWriter]
@[simp] theorem State.setBitWriter_sinkQ (s : State) (b : BitWriter) : (s.setBitWriter b).sinkQ = s.sinkQ := by
  simp [State.setBitWriter]
@[simp] theorem State.setBitWriter_wire (s : State) (b : BitWriter) : (s.setBitWriter b).wire = s.wire := by
  simp [State.setBitWriter]
@[simp] theorem State.setBitWriter_ci (s : State) (b : BitWriter) : (s.setBitWriter b).ci = s.ci := by
  simp [State.setBitWriter]
@[simp] theorem State.setBitWriter_freeCtr (s : State) (b : BitWriter) : (s.setBitWriter b).freeCtr = s.freeCtr := by
  simp [State.setBitWriter]

@[simp] theorem State.setBitWriter_cur (s : State) (b : BitWriter) :
    (s.setBitWriter b).cur = { s.cur with hdr := b.hdr } := by
  cases h : s.tgl <;> simp [State.setBitWriter, State.cur, State.setCur, State.setAecs, State.aecs, h]

@[simp] theorem State.setBitWriter_other (s : State) (b : BitWriter) :
    (s.setBitWriter b).aecs (!s.tgl) = s.aecs (!s.tgl) := by
  cases h : s.tgl <;> simp [State.setBitWriter, State.setCur, State.setAecs, State.aecs, h]

end Sys2Proof.Machine
end

