-- ==== Sys2Proof/Laws/Ops.lean ====
section
/-! SUPPORT. For each shared operation, once, everything it can do; the lemmas that cite it need not unfold it. -/

namespace Sys2Proof.Machine

/-! ### The accumulator -/

/-- What BW.WRITE can do: refuse at the cap and leave the accumulator; append and store nothing; append and store a group; or,
out of its invariant, find the region's end. -/
theorem BitWriter.write_cases (b : BitWriter) (f : Field) :
    (hdrCapBits < b.total.toNat + f.n ∧ b.write f = .error (.headerCap, b)) ∨
      (b.total.toNat + f.n ≤ hdrCapBits ∧ (b.append f).nb.toNat < groupBits ∧ b.write f = .ok (b.append f)) ∨
      (b.total.toNat + f.n ≤ hdrCapBits ∧ groupBits ≤ (b.append f).nb.toNat ∧ b.outp.toNat + 6 ≤ hdrRegionBytes ∧
        b.write f =
          .ok
            { b.append f with
              hdr := b.hdr.writeBytes b.outp.toNat (bytesLe (b.append f).acc.toNat 6)
              outp := BitVec.ofNat 9 (b.outp.toNat + 6)
              acc := (b.append f).acc >>> 48
              nb := BitVec.ofNat 7 ((b.append f).nb.toNat - 48) }) ∨
      (b.total.toNat + f.n ≤ hdrCapBits ∧ groupBits ≤ (b.append f).nb.toNat ∧ hdrRegionBytes < b.outp.toNat + 6 ∧
        b.write f = .error (.outOfRegion, b.append f)) := by
  by_cases hcap : hdrCapBits < b.total.toNat + f.n
  · exact .inl ⟨hcap, by simp [BitWriter.write, hcap]⟩
  · have hle : b.total.toNat + f.n ≤ hdrCapBits := Nat.le_of_not_lt hcap
    have hw : b.write f = (b.append f).drainGroup := by simp [BitWriter.write, hcap]
    refine .inr ?_
    by_cases hnb : groupBits ≤ (b.append f).nb.toNat
    · refine .inr ?_
      have ho : (b.append f).outp = b.outp := rfl
      have hh : (b.append f).hdr = b.hdr := rfl
      rcases memWrite_cases hdrRegionBytes b.hdr b.outp.toNat 6 (b.append f).acc.toNat with ⟨hr, hm⟩ | ⟨hr, hm⟩
      · refine .inl ⟨hle, hnb, by simpa [inRegion] using hr, ?_⟩
        rw [hw]; simp [BitWriter.drainGroup, hnb, ho, hh, hm]
      · refine .inr ⟨hle, hnb, by simpa [inRegion] using hr, ?_⟩
        rw [hw]; simp [BitWriter.drainGroup, hnb, ho, hh, hm]
    · exact .inl ⟨hle, Nat.lt_of_not_le hnb, by rw [hw]; simp [BitWriter.drainGroup, hnb]⟩

/-- What several writes can do. -/
theorem BitWriter.writeAll_cases (b : BitWriter) (f : Field) (fs : List Field) :
    (∃ b', b.write f = .ok b' ∧ b.writeAll (f :: fs) = b'.writeAll fs) ∨
      (∃ e, b.write f = .error e ∧ b.writeAll (f :: fs) = .error e) := by
  cases h : b.write f with
  | ok b' => exact .inl ⟨b', rfl, by simp [BitWriter.writeAll, h]⟩
  | error e => exact .inr ⟨e, rfl, by simp [BitWriter.writeAll, h]⟩

/-- What BW.FLUSH can do. -/
theorem BitWriter.flush_cases (b : BitWriter) :
    (inRegion hdrRegionBytes b.outp.toNat (ceilDiv8 b.nb.toNat) = true ∧
        b.flush =
          .ok
            ({ acc := 0, nb := 0, total := 0, outp := 0,
               hdr := b.hdr.writeBytes b.outp.toNat (bytesLe b.acc.toNat (ceilDiv8 b.nb.toNat)) }, b.total)) ∨
      (inRegion hdrRegionBytes b.outp.toNat (ceilDiv8 b.nb.toNat) = false ∧ b.flush = .error (.outOfRegion, b)) := by
  rcases memWrite_cases hdrRegionBytes b.hdr b.outp.toNat (ceilDiv8 b.nb.toNat) b.acc.toNat with ⟨hr, hm⟩ | ⟨hr, hm⟩
  · exact .inl ⟨hr, by simp [BitWriter.flush, hm]⟩
  · exact .inr ⟨hr, by simp [BitWriter.flush, hm]⟩

/-- What writing fields from a state can do: the accumulator's group written back and the next micro-operation, or the FAULT
state. -/
theorem State.writeFields_cases (s : State) (fs : List Field) (u : BitVec 8) :
    (∃ b, s.bitWriter.writeAll fs = .ok b ∧ s.writeFields fs u = (s.setBitWriter b).goto u) ∨
      (∃ r b, s.bitWriter.writeAll fs = .error (r, b) ∧ s.writeFields fs u = (s.setBitWriter b).enterFault r) := by
  cases h : s.bitWriter.writeAll fs with
  | ok b => exact .inl ⟨b, rfl, by simp [State.writeFields, h]⟩
  | error e => exact .inr ⟨e.1, e.2, rfl, by simp [State.writeFields, h]⟩

/-! ### The sink -/

/-- What an append to the sink followed by a continuation can do: the bytes are taken and the continuation runs, or the sink
fails and the command ends with E_SINK. -/
theorem State.emit_cases (s : State) (bytes : List Byte) (next : State → State) :
    (∃ q, s.emit bytes next = next { s with sink := s.sink ++ bytes, sinkQ := q } ∧
        (s.sinkQ = [] ∧ q = [] ∨ s.sinkQ = .accept :: q)) ∨
      (∃ k q, s.sinkQ = .fail k :: q ∧
        s.emit bytes next = { s with sink := s.sink ++ bytes.take k, sinkQ := q }.raiseBlock .sink) := by
  unfold State.emit State.sinkAppend
  split
  · next h => exact .inl ⟨[], by simp [h], .inl ⟨h, rfl⟩⟩
  · next q h => exact .inl ⟨q, by simp, .inr h⟩
  · next k q h => exact .inr ⟨k, q, h, by simp⟩

/-! ### Submit -/

/-- What a job's micro-operation can do: wait for an answer; end with E_SIZE, nothing submitted; or submit and go on. -/
theorem State.submit_cases (s : State) (j : Job) (fits : Nat → Bool) (done : State → State) :
    (s.submit j fits done = s ∧ (s.xferQ = [] ∨ s.jobQ = [])) ∨
      (∃ m q, s.xferQ = m :: q ∧ fits m = false ∧
        s.submit j fits done = { s with xferQ := q, maxxfer := BitVec.ofNat 32 m }.raiseBlock .size) ∨
      (∃ m q r q', s.xferQ = m :: q ∧ s.jobQ = r :: q' ∧ fits m = true ∧
        s.submit j fits done =
          done ({ s with xferQ := q, maxxfer := BitVec.ofNat 32 m, jobQ := q' }.afterJob j r)) := by
  unfold State.submit
  split
  · next h => exact .inl ⟨rfl, .inl h⟩
  · next m q h =>
    by_cases hf : fits m = true
    · simp only [hf, if_true]
      split
      · next hj => exact .inl ⟨rfl, .inr hj⟩
      · next r q' hj => exact .inr (.inr ⟨m, q, r, q', h, hj, hf, rfl⟩)
    · have hf' : fits m = false := by simpa using hf
      exact .inr (.inl ⟨m, q, h, hf', by simp [hf']⟩)

/-! ### The end of a block -/

/-- What the end of a block can do (R228, R242). -/
theorem State.endBlock_cases (s : State) (n : BitVec 64) :
    (s.inReadAll = false ∧ s.endBlock n = { s with fin := s.work.bf }.finish n) ∨
      (s.inReadAll = true ∧
        s.endBlock n = { s with fin := s.work.bf, rtotal := s.rtotal + n, upc := Upc.xReadall }) := by
  cases h : s.inReadAll
  · exact .inl ⟨rfl, by simp [State.endBlock, h]⟩
  · exact .inr ⟨rfl, by simp [State.endBlock, h]⟩

/-! ### Commands and the host -/

/-- What a write to CMD can do (R350). -/
theorem State.writeCmd_cases (s : State) (w : Word) :
    (s.upc = Upc.idle ∧ s.writeCmd w = s.takeCommand w) ∨
      (s.upc = Upc.faulted ∧ s.writeCmd w = s) ∨
      (s.upc ≠ Upc.idle ∧ s.upc ≠ Upc.faulted ∧ s.writeCmd w = { s with script := .csrWrite 0 w :: s.script }) := by
  by_cases h : s.upc = Upc.idle
  · exact .inl ⟨h, by simp [State.writeCmd, h]⟩
  · by_cases h' : s.upc = Upc.faulted
    · exact .inr (.inl ⟨h', by unfold State.writeCmd; rw [if_neg h, if_pos h']⟩)
    · exact .inr (.inr ⟨h, h', by simp [State.writeCmd, h, h']⟩)

/-- What the host's turn can do: nothing; a write to CMD; a write that is ignored; a Block for IN; a source; hardware reset. -/
theorem State.hostTurn_cases (s : State) :
    (s.script = [] ∧ s.hostTurn = s) ∨
      (∃ w q, s.script = .csrWrite 0 w :: q ∧ s.hostTurn = { s with script := q }.writeCmd w) ∨
      (∃ off w q, off ≠ 0 ∧ s.script = .csrWrite off w :: q ∧ s.hostTurn = { s with script := q }) ∨
      (∃ bytes q, s.script = .loadIn bytes :: q ∧ s.hostTurn = { s with script := q }.loadIn bytes) ∨
      (∃ src q, s.script = .attachSource src :: q ∧ s.hostTurn = { s with script := q, src := src }) ∨
      (∃ ready q, s.script = .hardwareReset ready :: q ∧ s.hostTurn = { s with script := q }.hardwareReset ready) := by
  unfold State.hostTurn
  split
  · next h => exact .inl ⟨h, rfl⟩
  · next off w q h =>
    by_cases ho : off = 0
    · subst ho; exact .inr (.inl ⟨w, q, h, by simp [State.csrWrite]⟩)
    · exact .inr (.inr (.inl ⟨off, w, q, ho, h, by simp [State.csrWrite, ho]⟩))
  · next bytes q h => exact .inr (.inr (.inr (.inl ⟨bytes, q, h, rfl⟩)))
  · next src q h => exact .inr (.inr (.inr (.inr (.inl ⟨src, q, h, rfl⟩))))
  · next ready q h => exact .inr (.inr (.inr (.inr (.inr ⟨ready, q, h, rfl⟩))))

/-- What a Block for IN can do. -/
theorem State.loadIn_cases (s : State) (bytes : List Byte) :
    (bytes.length ≤ blockMax ∧ s.loadIn bytes = { s with inMem := s.inMem.writeBytes 0 bytes }) ∨
      (blockMax < bytes.length ∧ s.loadIn bytes = s.enterFault .outOfRegion) := by
  by_cases h : bytes.length ≤ blockMax
  · exact .inl ⟨h, by simp [State.loadIn, inRegion, h]⟩
  · refine .inr ⟨Nat.lt_of_not_le h, ?_⟩
    have hne : bytes ≠ [] := by rintro rfl; simp at h
    have hr : inRegion blockMax 0 bytes.length = false := by
      simp only [inRegion, Nat.zero_add, decide_eq_false_iff_not, not_or]
      exact ⟨by simpa using hne, h⟩
    simp [State.loadIn, hr]

/-! ### The fetch and the step -/

/-- What a step can do: run the wire item handed over, run the command the host writes at IDLE, run the micro-operation that UPC
names, or stop. -/
theorem step_cases (s : State) :
    (∃ w i, s.wire = some w ∧ decodeWire w = some i ∧ step s = exec i { s with wire := none }) ∨
      (∃ w, s.wire = some w ∧ decodeWire w = none ∧ step s = .refused .wireReserved) ∨
      (∃ i s', s.wire = none ∧ fetchCommand s = some (i, s') ∧ step s = exec i s') ∨
      (∃ i, s.wire = none ∧ fetchCommand s = none ∧ decodeUpc s.upc = .ok i ∧ step s = exec i s) ∨
      (∃ e, s.wire = none ∧ fetchCommand s = none ∧ decodeUpc s.upc = .error e ∧ step s = .fault .upcNeverTaken) := by
  unfold step fetch
  cases hw : s.wire with
  | some w =>
    cases hd : decodeWire w with
    | some i => exact .inl ⟨w, i, rfl, hd, by simp [hd]⟩
    | none => exact .inr (.inl ⟨w, rfl, hd, by simp [hd]⟩)
  | none =>
    refine .inr (.inr ?_)
    cases hc : fetchCommand s with
    | some p => exact .inl ⟨p.1, p.2, rfl, rfl, by simp⟩
    | none =>
      refine .inr ?_
      cases hu : decodeUpc s.upc with
      | ok i => exact .inl ⟨i, rfl, rfl, rfl, by simp [fetchUpc, hu]⟩
      | error e => exact .inr ⟨e, rfl, rfl, rfl, by simp [fetchUpc, hu]⟩

/-- What the fetch of a command is: at IDLE, the host's next write to CMD, a legal word. -/
theorem fetchCommand_some (s : State) (i : Instr) (s' : State) (h : fetchCommand s = some (i, s')) :
    ∃ w q, s.upc = Upc.idle ∧ s.script = .csrWrite 0 w :: q ∧ decodeCommand w = .ok i ∧ s' = { s with script := q } := by
  unfold fetchCommand at h
  split at h
  · next hu =>
    split at h
    · next w q hs =>
      refine ⟨w, q, hu, hs, ?_⟩
      cases hd : decodeCommand w with
      | ok j =>
        rw [hd] at h
        simp only [accepted, Option.map_some, Option.some.injEq, Prod.mk.injEq] at h
        exact ⟨by rw [h.1], h.2.symm⟩
      | error e => rw [hd] at h; simp [accepted] at h
    · cases h
  · cases h

/-! ### Jobs -/

/-- AS5 of R270 holds by construction of every job whose descriptor names an output buffer only where it is an encode job (log 7). -/
theorem State.afterJob_as5 (s : State) (j : Job) (r : JobAnswer) (h : j.kind = .stat → j.out = none) :
    AS5 j s (s.afterJob j r) := by
  refine ⟨?_, fun hk => by simp [State.afterJob, jobOut, h hk]⟩
  unfold State.afterJob
  cases j.aecs <;> rfl

theorem State.afterJob_inMem (s : State) (j : Job) (r : JobAnswer) : (s.afterJob j r).inMem = s.inMem := by
  simp [State.afterJob]

theorem State.afterJob_other_aecs (s : State) (j : Job) (r : JobAnswer) :
    (s.afterJob j r).aecs (!j.aecs) = s.aecs (!j.aecs) := by
  unfold State.afterJob; cases j.aecs <;> rfl

theorem State.afterJob_aecs (s : State) (j : Job) (r : JobAnswer) :
    (s.afterJob j r).aecs j.aecs = (s.aecs j.aecs).afterJob (r.written j.kind) := by
  unfold State.afterJob; cases j.aecs <;> rfl

theorem State.afterJob_cr (s : State) (j : Job) (r : JobAnswer) : (s.afterJob j r).cr = r.record := rfl

theorem State.afterJob_submitFailed (s : State) (j : Job) (r : JobAnswer) :
    (s.afterJob j r).submitFailed = r.submitStatus.isSome := rfl

/-- The descriptors that the DFE hands over name an output buffer for an encode job alone (R263). -/
theorem State.statJob_out (s : State) : s.statJob.out = none := rfl

theorem State.encodeJob_out (s : State) : s.encodeJob.out = some .out := rfl

/-- After an encode job OUT holds the bytes that the answer produced, where they fit in it (R265, R270 AS3). -/
theorem State.afterJob_producedBytes (s : State) (j : Job) (r : JobAnswer) (hj : j.out = some .out) (hw : s.out.wf = true)
    (hp : r.cr.produced.toNat ≤ j.outCap) :
    (s.afterJob j r).out.readBytes 0 r.cr.produced.toNat = r.producedBytes := by
  have hread : ∀ k, k < r.cr.produced.toNat → (s.afterJob j r).out.read k = r.out.getD k 0 := by
    intro k hk
    have hl : k < (jobOutput j.outCap r).length := by simp [jobOutput]; omega
    have h := s.out.read_writeBytes_inside 0 k _ hw hl
    simp only [Nat.zero_add] at h
    have ho : (s.afterJob j r).out = s.out.writeBytes 0 (jobOutput j.outCap r) := by simp only [State.afterJob, jobOut, hj]
    rw [ho, h]
    simp only [jobOutput, padded, List.getElem_map, List.getElem_range]
  apply List.ext_getElem
  · simp [JobAnswer.producedBytes]
  · intro k h1 _
    simp only [Memory.length_readBytes] at h1
    rw [Memory.getElem_readBytes, Nat.zero_add, hread k h1]
    simp [JobAnswer.producedBytes, padded]

/-- A submission that failed is recorded with its own status and error 0 (R262). -/
theorem JobAnswer.record_cases (r : JobAnswer) :
    (r.submitStatus = none ∧ r.record = r.cr) ∨
      (∃ st, r.submitStatus = some st ∧ r.record = { r.cr with status := st, error := 0 }) := by
  unfold JobAnswer.record
  cases r.submitStatus with
  | none => exact .inl ⟨rfl, rfl⟩
  | some st => exact .inr ⟨st, rfl, rfl⟩

/-- The three classes of R267, with R262: exactly one of success, overflow and fatal. -/
theorem State.completion_cases (s : State) :
    (s.submitFailed = false ∧ s.cr.status = s.par.success ∧ s.isSuccess = true ∧ s.isOverflow = false) ∨
      (s.submitFailed = false ∧ s.cr.status ≠ s.par.success ∧ (s.cr.status, s.cr.error) ∈ s.par.overflowSet ∧
        s.isSuccess = false ∧ s.isOverflow = true) ∨
      ((s.submitFailed = true ∨
          (s.cr.status ≠ s.par.success ∧ (s.cr.status, s.cr.error) ∉ s.par.overflowSet)) ∧
        s.isSuccess = false ∧ s.isOverflow = false) := by
  cases hf : s.submitFailed
  · by_cases hs : s.cr.status = s.par.success
    · exact .inl ⟨rfl, hs, by simp [State.isSuccess, hf, hs], by simp [State.isOverflow, State.isSuccess, hf, hs]⟩
    · by_cases ho : (s.cr.status, s.cr.error) ∈ s.par.overflowSet
      · exact .inr (.inl ⟨rfl, hs, ho, by simp [State.isSuccess, hs], by simp [State.isOverflow, State.isSuccess, hf, hs, ho]⟩)
      · exact .inr (.inr ⟨.inr ⟨hs, ho⟩, by simp [State.isSuccess, hs], by simp [State.isOverflow, ho]⟩)
  · exact .inr (.inr ⟨.inl rfl, by simp [State.isSuccess, hf], by simp [State.isOverflow, hf]⟩)

/-! ### READ_ALL -/

/-- What the loop head of READ_ALL can do (R242): end the command after the final block; send a full block and go on; wait; send
the bytes held at the end of the source; or end with E_SRC. -/
theorem execXReadall_cases (s : State) :
    (s.work.bf = true ∧ execXReadall s = .next (s.finish s.rtotal)) ∨
      (s.work.bf = false ∧ blockMax < s.src.bytes.length ∧
        execXReadall s =
          .next
            (s.startSourceBlock (s.src.bytes.take blockMax) { s.src with bytes := s.src.bytes.drop blockMax } false)) ∨
      (s.work.bf = false ∧ s.src.bytes.length ≤ blockMax ∧ s.src.status = .pending ∧ execXReadall s = .next s) ∨
      (s.work.bf = false ∧ s.src.bytes.length ≤ blockMax ∧ s.src.status = .ended ∧
        execXReadall s =
          .next (s.startSourceBlock s.src.bytes ⟨[], .ended⟩ (decide (s.src.bytes.length < blockMax)))) ∨
      (s.work.bf = false ∧ s.src.bytes.length ≤ blockMax ∧ s.src.status = .failed ∧
        execXReadall s =
          .next ({ s with inMem := s.inMem.writeBytes 0 s.src.bytes, src := ⟨[], .failed⟩ }.raise .src s.rtotal)) := by
  cases hb : s.work.bf
  · by_cases hl : blockMax < s.src.bytes.length
    · exact .inr (.inl ⟨rfl, hl, by simp only [execXReadall, hb, hl]; rfl⟩)
    · have hle : s.src.bytes.length ≤ blockMax := Nat.le_of_not_lt hl
      have ht : s.src.bytes.take blockMax = s.src.bytes := List.take_of_length_le hle
      refine .inr (.inr ?_)
      cases hs : s.src.status
      · exact .inl ⟨rfl, hle, rfl, by simp only [execXReadall, hb, hl, hs]; rfl⟩
      · exact .inr (.inl ⟨rfl, hle, rfl, by simp only [execXReadall, hb, hl, hs, ht]; rfl⟩)
      · exact .inr (.inr ⟨rfl, hle, rfl, by simp only [execXReadall, hb, hl, hs, ht]; rfl⟩)
  · exact .inl ⟨rfl, by simp only [execXReadall, hb]; rfl⟩

end Sys2Proof.Machine
end

