-- ==== Sys2Proof/Laws/PerInstr.lean ====
section
/-! SUPPORT. A family of statements made per instruction: every instruction's word has its table row's format and the bits that
spec/opcode_table.json fixes for that row. -/

namespace Sys2Proof.Laws

/-- A row of spec/opcode_table.json: its format, the bits it fixes and their values. -/
structure TableRow where
  fmt : Format
  mask : Word
  pattern : Word
deriving DecidableEq, Repr

/-- The row of an instruction, as the table has it. -/
def tableRow : Instr → TableRow
  | .reset => ⟨.s, 0xFFFFFFFF#32, 0x00000001#32⟩
  | .writeBlock _ _ => ⟨.s, 0x0000FFEF#32, 0x00000002#32⟩
  | .close => ⟨.s, 0xFFFFFFFF#32, 0x00000003#32⟩
  | .readAll => ⟨.s, 0xFFFFFFFF#32, 0x00000004#32⟩
  | .idle => ⟨.upc, 0xFF#32, 0x00#32⟩
  | .check => ⟨.upc, 0xFF#32, 0x01#32⟩
  | .s1Select => ⟨.upc, 0xFF#32, 0x10#32⟩
  | .s2Stat => ⟨.upc, 0xFF#32, 0x20#32⟩
  | .s3Eob => ⟨.upc, 0xFF#32, 0x30#32⟩
  | .s3HgenLl => ⟨.upc, 0xFF#32, 0x31#32⟩
  | .s3HgenD => ⟨.upc, 0xFF#32, 0x32#32⟩
  | .s3CanonLl => ⟨.upc, 0xFF#32, 0x33#32⟩
  | .s3CanonD => ⟨.upc, 0xFF#32, 0x34#32⟩
  | .s4Tokenize => ⟨.upc, 0xFF#32, 0x40#32⟩
  | .s4HgenCl => ⟨.upc, 0xFF#32, 0x41#32⟩
  | .s4CanonCl => ⟨.upc, 0xFF#32, 0x42#32⟩
  | .s4Prefix => ⟨.upc, 0xFF#32, 0x43#32⟩
  | .s4Blkhdr => ⟨.upc, 0xFF#32, 0x44#32⟩
  | .s4Counts => ⟨.upc, 0xFF#32, 0x45#32⟩
  | .s4Cllens => ⟨.upc, 0xFF#32, 0x46#32⟩
  | .s4Seq => ⟨.upc, 0xFF#32, 0x47#32⟩
  | .s4Flush => ⟨.upc, 0xFF#32, 0x48#32⟩
  | .s5Encode => ⟨.upc, 0xFF#32, 0x50#32⟩
  | .s6Interpret => ⟨.upc, 0xFF#32, 0x60#32⟩
  | .s6EmitCarry => ⟨.upc, 0xFF#32, 0x61#32⟩
  | .s6EmitAll => ⟨.upc, 0xFF#32, 0x62#32⟩
  | .s6Stored => ⟨.upc, 0xFF#32, 0x63#32⟩
  | .s6Fatal => ⟨.upc, 0xFF#32, 0x6F#32⟩
  | .s7Update => ⟨.upc, 0xFF#32, 0x70#32⟩
  | .zStored => ⟨.upc, 0xFF#32, 0x80#32⟩
  | .xReset => ⟨.upc, 0xFF#32, 0x90#32⟩
  | .xClose => ⟨.upc, 0xFF#32, 0x91#32⟩
  | .xReadall => ⟨.upc, 0xFF#32, 0x92#32⟩
  | .faulted => ⟨.upc, 0xFF#32, 0xF0#32⟩
  | .hdrDynamic _ => ⟨.blkhdr3, 0x6#32, 0x4#32⟩
  | .hdrStored _ => ⟨.blkhdr3, 0x6#32, 0x0#32⟩
  | .clLen _ => ⟨.clsym, 0x10#32, 0x00#32⟩
  | .clRep16 _ => ⟨.clsym, 0x1F#32, 0x10#32⟩
  | .clRep17 _ => ⟨.clsym, 0x1F#32, 0x11#32⟩
  | .clRep18 _ => ⟨.clsym, 0x1F#32, 0x12#32⟩
  | .packedEntry _ _ => ⟨.packed32, 0xFFF80000#32, 0x00000000#32⟩

/-- The word of an instruction lies in its row of the table. -/
def EncodesInRow.Statement (i : Instr) : Prop :=
  (encode i).fmt = (tableRow i).fmt ∧ (encode i).bits &&& (tableRow i).mask = (tableRow i).pattern

namespace EncodesInRow

theorem reset : Statement .reset := ⟨rfl, rfl⟩
theorem writeBlock (final : Bool) (len : BitVec 16) : Statement (.writeBlock final len) := by
  refine ⟨rfl, ?_⟩
  simp only [encode, tableRow, commandWord]
  ext k hk
  interval_cases k <;> simp
theorem close : Statement .close := ⟨rfl, rfl⟩
theorem readAll : Statement .readAll := ⟨rfl, rfl⟩
theorem idle : Statement .idle := ⟨rfl, rfl⟩
theorem check : Statement .check := ⟨rfl, rfl⟩
theorem s1Select : Statement .s1Select := ⟨rfl, rfl⟩
theorem s2Stat : Statement .s2Stat := ⟨rfl, rfl⟩
theorem s3Eob : Statement .s3Eob := ⟨rfl, rfl⟩
theorem s3HgenLl : Statement .s3HgenLl := ⟨rfl, rfl⟩
theorem s3HgenD : Statement .s3HgenD := ⟨rfl, rfl⟩
theorem s3CanonLl : Statement .s3CanonLl := ⟨rfl, rfl⟩
theorem s3CanonD : Statement .s3CanonD := ⟨rfl, rfl⟩
theorem s4Tokenize : Statement .s4Tokenize := ⟨rfl, rfl⟩
theorem s4HgenCl : Statement .s4HgenCl := ⟨rfl, rfl⟩
theorem s4CanonCl : Statement .s4CanonCl := ⟨rfl, rfl⟩
theorem s4Prefix : Statement .s4Prefix := ⟨rfl, rfl⟩
theorem s4Blkhdr : Statement .s4Blkhdr := ⟨rfl, rfl⟩
theorem s4Counts : Statement .s4Counts := ⟨rfl, rfl⟩
theorem s4Cllens : Statement .s4Cllens := ⟨rfl, rfl⟩
theorem s4Seq : Statement .s4Seq := ⟨rfl, rfl⟩
theorem s4Flush : Statement .s4Flush := ⟨rfl, rfl⟩
theorem s5Encode : Statement .s5Encode := ⟨rfl, rfl⟩
theorem s6Interpret : Statement .s6Interpret := ⟨rfl, rfl⟩
theorem s6EmitCarry : Statement .s6EmitCarry := ⟨rfl, rfl⟩
theorem s6EmitAll : Statement .s6EmitAll := ⟨rfl, rfl⟩
theorem s6Stored : Statement .s6Stored := ⟨rfl, rfl⟩
theorem s6Fatal : Statement .s6Fatal := ⟨rfl, rfl⟩
theorem s7Update : Statement .s7Update := ⟨rfl, rfl⟩
theorem zStored : Statement .zStored := ⟨rfl, rfl⟩
theorem xReset : Statement .xReset := ⟨rfl, rfl⟩
theorem xClose : Statement .xClose := ⟨rfl, rfl⟩
theorem xReadall : Statement .xReadall := ⟨rfl, rfl⟩
theorem faulted : Statement .faulted := ⟨rfl, rfl⟩
theorem hdrDynamic (b : Bool) : Statement (.hdrDynamic b) := ⟨rfl, by revert b; decide⟩
theorem hdrStored (b : Bool) : Statement (.hdrStored b) := ⟨rfl, by revert b; decide⟩
theorem clLen (v : BitVec 4) : Statement (.clLen v) := ⟨rfl, by revert v; decide⟩
theorem clRep16 (e : BitVec 2) : Statement (.clRep16 e) := ⟨rfl, by revert e; decide⟩
theorem clRep17 (e : BitVec 3) : Statement (.clRep17 e) := ⟨rfl, by revert e; decide⟩
theorem clRep18 (e : BitVec 7) : Statement (.clRep18 e) := ⟨rfl, by revert e; decide⟩
theorem packedEntry (len : BitVec 4) (code : BitVec 15) : Statement (.packedEntry len code) := by
  refine ⟨rfl, ?_⟩
  simp only [encode, tableRow, packedBits]
  ext k hk
  interval_cases k <;> simp

end EncodesInRow

end Sys2Proof.Laws
end

