-- ==== Sys2Proof/Tests/Slice0.lean ====
section
/-! SUPPORT. The model's own tests. Expected values are those of spec/95_test_vectors.md, of the examples in the rules, or worked out
by hand from a rule; each theorem names its source. -/

namespace Sys2Proof.Tests

open Sys2Proof Sys2Proof.Machine

/- The tests are many small evaluations: one at a time, so that they do not hold a thread each. -/
set_option Elab.async false

/-! ### Well-formedness -/

/-- R96: code < 2^len. -/
theorem test_wellFormed_packed_ok : wellFormed (.packedEntry 15#4 0x7FFF#15) = true := by decide

theorem test_wellFormed_packed_code_too_large : wellFormed (.packedEntry 3#4 8#15) = false := by decide

theorem test_wellFormed_packed_unused_symbol : wellFormed (.packedEntry 0#4 1#15) = false := by decide

/-! ### Decoding: words written out from the spec's encodings, every constructor (R108, V-CMD, R30, R98, R101, R147) -/

theorem test_decode_commands :
    decode .s 0x00000001#32 = .ok .reset ∧ decode .s 0x00400002#32 = .ok (.writeBlock false 64#16) ∧
      decode .s 0x00400012#32 = .ok (.writeBlock true 64#16) ∧ decode .s 0x80010002#32 = .ok (.writeBlock false 32769#16) ∧
      decode .s 0xFFFF0012#32 = .ok (.writeBlock true 65535#16) ∧ decode .s 0x00000012#32 = .ok flushFinal ∧
      decode .s 0x00000003#32 = .ok .close ∧ decode .s 0x00000004#32 = .ok .readAll := by decide

theorem test_decode_illegal_commands :
    decode .s 0x00000000#32 = .error .reservedOp ∧ decode .s 0x00000005#32 = .error .reservedOp ∧
      decode .s 0x0000000F#32 = .error .reservedOp ∧ decode .s 0x00000011#32 = .error .operandNotAllowed ∧
      decode .s 0x00010001#32 = .error .operandNotAllowed ∧ decode .s 0x00000013#32 = .error .operandNotAllowed ∧
      decode .s 0x00400004#32 = .error .operandNotAllowed ∧ decode .s 0x00000022#32 = .error .reservedBits ∧
      decode .s 0x00008002#32 = .error .reservedBits := by decide

theorem test_decode_upc_control :
    decode .upc 0x00#32 = .ok .idle ∧ decode .upc 0x01#32 = .ok .check ∧ decode .upc 0x90#32 = .ok .xReset ∧
      decode .upc 0x91#32 = .ok .xClose ∧ decode .upc 0x92#32 = .ok .xReadall ∧ decode .upc 0xF0#32 = .ok .faulted ∧
      decode .upc 0x02#32 = .error .reservedUpc ∧ decode .upc 0x100#32 = .error .tooWide := by decide

theorem test_decode_upc_tables :
    decode .upc 0x10#32 = .ok .s1Select ∧ decode .upc 0x20#32 = .ok .s2Stat ∧ decode .upc 0x30#32 = .ok .s3Eob ∧
      decode .upc 0x31#32 = .ok .s3HgenLl ∧ decode .upc 0x32#32 = .ok .s3HgenD ∧ decode .upc 0x33#32 = .ok .s3CanonLl ∧
      decode .upc 0x34#32 = .ok .s3CanonD := by decide

theorem test_decode_upc_header :
    decode .upc 0x40#32 = .ok .s4Tokenize ∧ decode .upc 0x41#32 = .ok .s4HgenCl ∧ decode .upc 0x42#32 = .ok .s4CanonCl ∧
      decode .upc 0x43#32 = .ok .s4Prefix ∧ decode .upc 0x44#32 = .ok .s4Blkhdr ∧ decode .upc 0x45#32 = .ok .s4Counts ∧
      decode .upc 0x46#32 = .ok .s4Cllens ∧ decode .upc 0x47#32 = .ok .s4Seq ∧ decode .upc 0x48#32 = .ok .s4Flush := by decide

theorem test_decode_upc_block :
    decode .upc 0x50#32 = .ok .s5Encode ∧ decode .upc 0x60#32 = .ok .s6Interpret ∧ decode .upc 0x61#32 = .ok .s6EmitCarry ∧
      decode .upc 0x62#32 = .ok .s6EmitAll ∧ decode .upc 0x63#32 = .ok .s6Stored ∧ decode .upc 0x6F#32 = .ok .s6Fatal ∧
      decode .upc 0x70#32 = .ok .s7Update ∧ decode .upc 0x80#32 = .ok .zStored := by decide

theorem test_decode_wire_items :
    decode .blkhdr3 4#32 = .ok (.hdrDynamic false) ∧ decode .blkhdr3 5#32 = .ok (.hdrDynamic true) ∧
      decode .blkhdr3 0#32 = .ok (.hdrStored false) ∧ decode .blkhdr3 1#32 = .ok (.hdrStored true) ∧
      decode .blkhdr3 3#32 = .error .reservedBtype ∧ decode .blkhdr3 7#32 = .error .reservedBtype ∧
      decode .clsym 15#32 = .ok (.clLen 15#4) ∧ decode .clsym 0x50#32 = .ok (.clRep16 2#2) ∧
      decode .clsym 0xF1#32 = .ok (.clRep17 7#3) ∧ decode .clsym 0xAD2#32 = .ok (.clRep18 86#7) ∧
      decode .clsym 19#32 = .error .reservedSymbol ∧ decode .clsym 0x90#32 = .error .extraBits ∧
      decode .packed32 0x00018006#32 = .ok (.packedEntry 3#4 6#15) ∧
      decode .packed32 0x0007FFFF#32 = .ok (.packedEntry 15#4 0x7FFF#15) ∧
      decode .packed32 0x00080000#32 = .error .packedHighBits := by decide

/-! ### Small states -/

/-- Parameters with the reference instance of HUFFLEN, 0 for success and (1, 0) for overflow. -/
def par : Params := { outCap := 4096, success := 0, overflowSet := [(1, 0)], scratchInit := [0x5A#8], huffChoices := [] }

/-- A bound, healthy stream at IDLE. -/
def bound : State := { State.hwReset true with par := par, bound := true }

/-- The bound stream at a micro-operation. -/
def at' (u : BitVec 8) : State := { bound with upc := u }

/-- The bound stream at CHECK with a command word. -/
def checking (w : Word) : State := { at' Upc.check with cmd := w }

/-- The bound stream at a micro-operation, with "abc" in IN and N = 3. -/
def abc (u : BitVec 8) : State :=
  { at' u with
    inMem := Memory.empty.writeBytes 0 [0x61#8, 0x62#8, 0x63#8]
    work := { Work.zero with n := 3#16 } }

/-- The counters of block A (V-H14): 40 times 97, 20 times 98, 4 times 99; the end-of-block symbol not counted. -/
def histA : Memory := ((Memory.empty.setEntry 97 40).setEntry 98 20).setEntry 99 4

/-- The code lengths of block A (R192). -/
def lensA : List (BitVec 4) :=
  List.replicate 97 0 ++ [1#4, 2#4, 3#4] ++ List.replicate 156 0 ++ [3#4]

/-- CLLEN and CLREV of block A (R192). -/
def clLenA : List (BitVec 3) := [0, 2, 2, 2, 0, 0, 0, 0, 0, 0, 0, 0, 0, 0, 0, 0, 0, 0, 2]

def clRevA : List (BitVec 7) := [0, 0, 2, 1, 0, 0, 0, 0, 0, 0, 0, 0, 0, 0, 0, 0, 0, 0, 3]

/-- TOK of block A (R192): 18(86), 1, 2, 3, 18(127), 18(7), 3, 1. -/
def tokA : List Token :=
  [⟨18, 86, 7⟩, ⟨1, 0, 0⟩, ⟨2, 0, 0⟩, ⟨3, 0, 0⟩, ⟨18, 127, 7⟩, ⟨18, 7, 7⟩, ⟨3, 0, 0⟩, ⟨1, 0, 0⟩]

/-- The working registers of block A past S4.CANON_CL (R192), final. -/
def workA : Work :=
  { Work.zero with
    llLen := lensA, dLen := [1], clLen := clLenA, clRev := clRevA, tok := tokA, nlit := 257, ndist := 1, nclen := 18,
    bf := true, n := 64 }

/-- Block A at a micro-operation of step 4. -/
def stateA (u : BitVec 8) : State := { at' u with work := workA }

/-- An answer of the accelerator: a status, produced bytes in OUT, a bit remainder. -/
def answer (status : BitVec 8) (out : List Byte) (bitrem : BitVec 3) : JobAnswer :=
  { submitStatus := none
    cr := { status := status, error := 0, consumed := 0, produced := BitVec.ofNat 32 out.length, bitrem := bitrem, crc := 0 }
    out := out, histLL := some [7], histD := none, hdr := none, hdrBits := none, scratch := none, rest := none }

/-- One field of the next state, or a default where there is none. -/
def after {α : Type} (o : Out) (d : α) (f : State → α) : α :=
  match o with
  | .next t => f t
  | _ => d

/-! ### One step of each instruction -/

/-- R350: the word of each command is held and CHECK is next. -/
theorem test_commands :
    after (exec .reset bound) (0, 0) (fun t => (t.cmd, t.upc)) = (0x00000001#32, 0x01#8) ∧
      after (exec (.writeBlock true 64#16) bound) (0, 0) (fun t => (t.cmd, t.upc)) = (0x00400012#32, 0x01#8) ∧
      after (exec .close bound) (0, 0) (fun t => (t.cmd, t.upc)) = (0x00000003#32, 0x01#8) ∧
      after (exec .readAll bound) (0, 0) (fun t => (t.cmd, t.upc)) = (0x00000004#32, 0x01#8) := by decide

/-- R36, R94: an illegal word is taken too; a write elsewhere is ignored. -/
theorem test_idle :
    after (exec .idle { bound with script := [.csrWrite 0 0x22] }) (0, 0) (fun t => (t.cmd, t.upc)) = (0x22#32, 0x01#8) ∧
      after (exec .idle { bound with script := [.csrWrite 4 1] }) (1, 1) (fun t => (t.cmd, t.upc)) = (0#32, 0x00#8) := by decide

/-- V-E. -/
theorem test_check_errors :
    after (exec .check (checking 0x00000022)) 0 State.eclass = 1 ∧
      after (exec .check { checking 0x00000022 with err := true }) 0 State.eclass = 1 ∧
      after (exec .check { checking 0x80010002 with err := true }) 0 State.eclass = 4 ∧
      after (exec .check (checking 0x80010002)) 0 State.eclass = 2 ∧
      after (exec .check { checking 0x80010002 with fin := true }) 0 State.eclass = 4 ∧
      after (exec .check (checking 0x00000003)) 0 State.eclass = 4 ∧
      after (exec .check { checking 0x00400002 with bound := false }) 0 State.eclass = 4 ∧
      after (exec .check { checking 0x00000001 with nodev := true }) 0 State.eclass = 1 := by decide

/-- R211. -/
theorem test_check_block :
    after (exec .check (checking 0x80000012)) (0, false, 0) (fun t => (t.upc, t.work.bf, t.work.n)) = (0x10#8, true, 32768#16) ∧
      after (exec .check (checking 0x00000002)) 0 State.upc = 0x80#8 := by decide

theorem test_s1Select :
    after (exec .s1Select { at' Upc.s1Select with tgl := true, conv := true }) ([], [], true)
      (fun t => (t.aecs1.scratch, t.aecs0.scratch, t.conv)) = ([0x5A#8], [], false) := by decide

/-- V-E: maxTransferSize() = 16 against N = 64: E_SIZE, MAXXFER = 16, no job; a failed job latches ERR. -/
theorem test_s2Stat_errors :
    after (exec .s2Stat { stateA Upc.s2Stat with xferQ := [16], jobQ := [answer 0 [] 0] }) (0, 0, true, 0)
        (fun t => (t.eclass, t.maxxfer, t.err, t.jobQ.length)) = (2#4, 16#32, false, 1) ∧
      after (exec .s2Stat { abc Upc.s2Stat with xferQ := [3], jobQ := [answer 9 [] 0] }) (0, 0, false)
        (fun t => (t.eclass, t.hwstatus, t.err)) = (3#4, 9#8, true) := by decide +kernel

/-- R215 on block A's counters. -/
theorem test_s3Eob :
    after (exec .s3Eob { at' Upc.s3Eob with aecs0 := { Aecs.zero with histLL := histA } }) (0, 0)
      (fun t => (t.cur.histLL.entry 256, t.cur.histLL.entry 97)) = (1#32, 40#32) := by decide +kernel

/-- R148's worked example. -/
theorem test_s3HgenLl :
    after (exec .s3HgenLl { at' Upc.s3HgenLl with aecs0 := { Aecs.zero with histLL := histA.setEntry 256 1 } }) []
      (fun t => [97, 98, 99, 100, 256].map fun i => t.work.llLen.getD i 0) = [1, 2, 3, 0, 3] := by decide +kernel

/-- R144. -/
theorem test_s3HgenD :
    after (exec .s3HgenD (at' Upc.s3HgenD)) [] (fun t => t.work.dLen.take 2) = [1, 0] := by decide +kernel

/-- R149's worked example. -/
theorem test_s3CanonLl :
    after (exec .s3CanonLl (stateA Upc.s3CanonLl)) []
      (fun t => [97, 98, 99, 100, 256].map t.cur.histLL.entry) = [0x8000, 0x10002, 0x18006, 0, 0x18007] := by decide +kernel

theorem test_s3CanonD :
    after (exec .s3CanonD (stateA Upc.s3CanonD)) (0, 1, false)
      (fun t => (t.cur.histD.entry 0, t.cur.histD.entry 1, t.conv)) = (0x8000#32, 0#32, true) := by decide +kernel

/-- R192. -/
theorem test_s4Tokenize :
    after (exec .s4Tokenize (stateA Upc.s4Tokenize)) ([], 0, 0) (fun t => (t.work.tok, t.work.nlit, t.work.ndist))
      = (tokA, 257, 1) := by decide +kernel

/-- V-T. -/
theorem test_tokens :
    tokenize (List.replicate 139 0) = [⟨18, 127, 7⟩, ⟨0, 0, 0⟩] ∧ tokenize [5, 5, 5, 5, 5, 5, 5, 5] = [⟨5, 0, 0⟩, ⟨16, 3, 2⟩, ⟨5, 0, 0⟩] ∧
      tokenize [3, 0, 0, 0, 3] = [⟨3, 0, 0⟩, ⟨17, 0, 3⟩, ⟨3, 0, 0⟩] := by decide +kernel

/-- R192: CLFREQ gives CLLEN. -/
theorem test_s4HgenCl :
    after
        (exec .s4HgenCl
          { at' Upc.s4HgenCl with
            work := { Work.zero with clFreq := [0, 2, 1, 2, 0, 0, 0, 0, 0, 0, 0, 0, 0, 0, 0, 0, 0, 0, 3] } })
        [] (fun t => t.work.clLen) = clLenA := by decide +kernel

/-- R192: CLREV and NCLEN. -/
theorem test_s4CanonCl :
    after (exec .s4CanonCl { at' Upc.s4CanonCl with work := { Work.zero with clLen := clLenA } }) ([], 0)
      (fun t => (t.work.clRev, t.work.nclen)) = (clRevA, 18#5) := by decide +kernel

/-- V-D1, the third row's first byte: the carried bits 0b111, then BFINAL = 1 and BTYPE = 0b10. -/
theorem test_s4Prefix_and_blkhdr :
    after (exec .s4Prefix { stateA Upc.s4Prefix with cb := 7, cbn := 3 }) (0, 0, 0) (fun t => (t.acc, t.nb, t.cb))
        = (7#64, 3#7, 7#7) ∧
      after (exec .s4Blkhdr { stateA Upc.s4Blkhdr with acc := 7, nb := 3, total := 3 }) (0, 0, 0) (fun t => (t.acc, t.nb, t.upc))
        = (0x2F#64, 6#7, 0x45#8) := by decide +kernel

/-- V-D1: HLIT 0, HDIST 0, HCLEN 14. -/
theorem test_s4Counts :
    after (exec .s4Counts (stateA Upc.s4Counts)) (0, 0) (fun t => (t.acc, t.total)) = (0x3800#64, 14#12) := by decide +kernel

/-- V-D1's 18 fields, by hand: bits 7, 40, 46 and 52. -/
theorem test_s4Cllens :
    after (exec .s4Cllens (stateA Upc.s4Cllens)) ([], 0, 0, 0) (fun t => (t.cur.hdr.readBytes 0 6, t.acc, t.outp, t.total))
      = ([0x80, 0, 0, 0, 0, 0x41], 0x10#64, 6#9, 54#12) := by decide +kernel

/-- V-D1's tokens, by hand: 3 + 86·2^2 + 2·2^11 + 1·2^13 + 3·2^15 + 127·2^17 + 3·2^24 + 7·2^26 + 1·2^33 in 37 bits. -/
theorem test_s4Seq :
    after (exec .s4Seq (stateA Upc.s4Seq)) (0, 0) (fun t => (t.acc, t.nb))
      = (BitVec.ofNat 64 (3 + 86 * 2 ^ 2 + 2 * 2 ^ 11 + 2 ^ 13 + 3 * 2 ^ 15 + 127 * 2 ^ 17 + 3 * 2 ^ 24 + 7 * 2 ^ 26 + 2 ^ 33),
          37#7) := by decide +kernel

/-- V-B, rows 4 and 5. -/
theorem test_write_group :
    (match (BitWriter.mk 0xFFFFABCDFD 40 40 0 Memory.empty).write (field 0x1234 16) with
      | .ok b => (b.hdr.readBytes 0 6, b.acc, b.nb, b.total, b.outp)
      | .error _ => ([], 0, 0, 0, 0)) = ([0xFD, 0xCD, 0xAB, 0xFF, 0xFF, 0x34], 0x12, 8, 56, 6) := by decide +kernel

/-- V-B, row 6. -/
theorem test_s4Flush :
    after (exec .s4Flush { at' Upc.s4Flush with acc := 0x12, nb := 8, total := 56, outp := 6 }) (0, 0, 0, 1)
      (fun t => (t.cur.hdr.read 6, t.hb, t.cur.hdrBits, t.total)) = (0x12#8, 56#12, 56#12, 0#12) := by decide +kernel

/-- V-E: OUT_CAP = 4096 above maxTransferSize() = 64: E_SIZE, nothing submitted. -/
theorem test_s5Encode_size :
    after (exec .s5Encode { stateA Upc.s5Encode with xferQ := [64], jobQ := [answer 0 [] 0] }) (0, 0, 0)
      (fun t => (t.eclass, t.maxxfer, t.jobQ.length)) = (2#4, 64#32, 1) := by decide +kernel

theorem test_s5Encode :
    after (exec .s5Encode { abc Upc.s5Encode with crc := 5, tgl := true, xferQ := [65536], jobQ := [answer 0 [0x15] 5] }) (0, 0, none, 0)
        (fun t => (t.upc, t.out.read 0, t.desc, t.cr.bitrem))
      = (0x60#8, 0x15#8, some ⟨.encode, [0x61, 0x62, 0x63], true, some .out, 4096, 5, false⟩, 5#3) := by decide +kernel

/-- V-I, N = 64: 69 = N + 5 stays compressed, 70 does not; overflow; fatal. -/
theorem test_s6Interpret :
    after (exec .s6Interpret { stateA 0x60 with cr := ⟨0, 0, 0, 69, 0, 0⟩ }) 0 State.upc = 0x62#8 ∧
      after (exec .s6Interpret { stateA 0x60 with cr := ⟨0, 0, 0, 70, 5, 0⟩ }) 0 State.upc = 0x63#8 ∧
      after (exec .s6Interpret { at' 0x60 with cr := ⟨0, 0, 0, 1, 3, 0⟩ }) 0 State.upc = 0x61#8 ∧
      after (exec .s6Interpret { stateA 0x60 with cr := ⟨1, 0, 0, 0, 0, 0⟩ }) 0 State.upc = 0x63#8 ∧
      after (exec .s6Interpret { stateA 0x60 with cr := ⟨1, 2, 0, 0, 0, 0⟩ }) 0 State.upc = 0x6F#8 := by decide +kernel

/-- V-I: P = 1, OUT = 15, r = 5 appends nothing, CARRY reads 0x0515; P = 0 is BadCompletion. -/
theorem test_s6EmitCarry :
    after (exec .s6EmitCarry { at' 0x61 with out := Memory.empty.write 0 0x15, cr := ⟨0, 0, 0, 1, 5, 0⟩ }) ([1], 0)
        (fun t => (t.sink, csrRead t 0x18)) = ([], 0x0515#32) ∧
      after (exec .s6EmitCarry { at' 0x61 with cr := ⟨0, 0, 0, 0, 3, 0⟩ }) (false, 0) (fun t => (t.fault, t.upc))
        = (true, 0xF0#8) := by decide +kernel

theorem test_s6EmitAll :
    after (exec .s6EmitAll { at' 0x62 with sink := [9], cb := 5, cbn := 3, out := Memory.empty.write 1 0x15, cr := ⟨0, 0, 0, 2, 0, 0⟩ }) ([], 1)
      (fun t => (t.sink, t.cbn)) = ([9, 0, 0x15], 0) := by decide +kernel

/-- V-S2, V-S3 (the data "U"). -/
theorem test_s6Stored :
    after (exec .s6Stored (abc 0x63)) [] State.sink = [0x00, 0x03, 0x00, 0xFC, 0xFF, 0x61, 0x62, 0x63] ∧
      stored 0b1011011 7 false [0x55] = [0x5B, 0x00, 0x01, 0x00, 0xFE, 0xFF, 0x55] := by decide +kernel

/-- R226, V-E: RESULT = 3 | X << 8 | Y << 16. -/
theorem test_s6Fatal :
    after (exec .s6Fatal { at' 0x6F with cr := ⟨0xAB, 0xCD, 0, 0, 0, 0⟩ }) (0, false) (fun t => (t.resultWord, t.err))
      = (0x00CDAB03#32, true) := by decide +kernel

/-- V-K on the overflow path: CRC32UPD(0, "abc"); the toggle flips, COUNT = 3. -/
theorem test_s7Update :
    after (exec .s7Update { abc 0x70 with cr := ⟨1, 0, 0, 0, 0, 7⟩ }) (0, false, 0) (fun t => (t.crc, t.tgl, t.count))
        = (0x352441C2#32, true, 3#64) ∧
      after (exec .s7Update { abc 0x70 with cr := ⟨0, 0, 0, 0, 0, 7⟩ }) 0 State.crc = 7 := by decide +kernel

/-- V-K: the standard check value. -/
theorem test_crc :
    crc32upd 0 [0x31, 0x32, 0x33, 0x34, 0x35, 0x36, 0x37, 0x38, 0x39] = 0xCBF43926 ∧ crc32upd 0 [0] = 0xD202EF8D := by decide +kernel

/-- V-S1, V-S4. -/
theorem test_zStored :
    after (exec .zStored { at' 0x80 with work := { Work.zero with bf := true } }) ([], false) (fun t => (t.sink, t.fin))
        = ([0x01, 0x00, 0x00, 0xFF, 0xFF], true) ∧
      after (exec .zStored { at' 0x80 with cb := 0b10110, cbn := 5, work := { Work.zero with bf := true } }) [] State.sink
        = [0x36, 0x00, 0x00, 0xFF, 0xFF] := by decide +kernel

/-- V-R: after the RESET command STATUS = 0x80, CARRY = 0, CRC = 0, the sink empty, the old one kept. -/
theorem test_xReset :
    after
        (exec .xReset { at' 0x90 with cb := 7, cbn := 3, crc := 0x9EF43984, tgl := true, err := true, sink := [1, 2] })
        (0, 1, 1, [], []) (fun t => (t.statusWord, t.carryWord, t.crc, t.sink, t.released)) = (0x80#32, 0, 0, [], [[1, 2]]) := rfl

/-- V-X: bound, FIN, TGL = 1, CLOSED reads 0x00B4. -/
theorem test_xClose :
    after (exec .xClose { at' 0x91 with fin := true, tgl := true }) 0 State.statusWord = 0xB4#32 := by decide +kernel

/-- P5 and P6: the end of the source makes the final block, zero-length where nothing is left. -/
theorem test_xReadall :
    after (exec .xReadall { at' 0x92 with src := ⟨[0x61, 0x62], .ended⟩ }) (0, false, 0, 0)
        (fun t => (t.upc, t.work.bf, t.work.n, t.inMem.read 1)) = (0x10#8, true, 2#16, 0x62#8) ∧
      after (exec .xReadall { at' 0x92 with src := ⟨[], .ended⟩ }) 0 State.upc = 0x80#8 := by decide +kernel

/-- R242: after the final block the command ends with its total; an error is E_SRC with the bytes of the completed blocks. -/
theorem test_xReadall_ends :
    after (exec .xReadall { at' 0x92 with rtotal := 64, fin := true, work := { Work.zero with bf := true } }) (1, 0, 1)
        (fun t => (t.eclass, t.count, t.upc)) = (0, 64, 0x00#8) ∧
      after (exec .xReadall { at' 0x92 with rtotal := 64, src := ⟨[0x61], .failed⟩ }) (0, 0, 1)
        (fun t => (t.eclass, t.count, t.upc)) = (7, 64, 0x00#8) := by decide +kernel

/-- R340: a command in the FAULT state is dropped; V-X: STATUS reads 0xF088. -/
theorem test_faulted :
    after (exec .faulted { at' 0xF0 with fault := true, script := [.csrWrite 0 1] }) (0, 0) (fun t => (t.upc, t.statusWord))
      = (0xF0#8, 0xF088#32) := by decide +kernel

theorem test_header_items :
    after (exec (.hdrDynamic true) bound) (0, 0) (fun t => (t.acc, t.nb)) = (5, 3) ∧
      after (exec (.hdrStored true) bound) [] State.sink = [0x01, 0x00, 0x00, 0xFF, 0xFF] := by decide +kernel

/-- R340: nothing more reaches the sink in the FAULT state. -/
theorem test_hdrStored_faulted :
    after (exec (.hdrStored true) { at' 0xF0 with fault := true, sinkQ := [.fail 0] }) ([1], 0) (fun t => (t.sink, t.upc))
      = ([], 0xF0#8) := by decide +kernel

/-- R262: a submission that failed is fatal whatever its status, its error is 0, and it is never an overflow. -/
theorem test_failed_submission :
    after (exec .s2Stat { abc 0x20 with xferQ := [9], jobQ := [{ answer 0 [] 0 with submitStatus := some 1 }] }) (0, 0, 1, false)
        (fun t => (t.eclass, t.hwstatus, t.hwerr, t.err)) = (3, 1, 0, true) ∧
      after (exec .s6Interpret { abc 0x60 with cr := ⟨1, 0, 0, 0, 0, 0⟩, submitFailed := true }) 0 State.upc = 0x6F#8 ∧
      after (exec .s6Interpret { abc 0x60 with cr := ⟨1, 0, 0, 0, 0, 0⟩ }) 0 State.upc = 0x63#8 := by decide +kernel

/-- R140 with L = 7: elements 8 to 15 of COUNTL and NEXT stay. -/
theorem test_s4CanonCl_upper :
    after (exec .s4CanonCl { at' 0x42 with
        work := { workA with countl := List.replicate 16 9, next := List.replicate 16 5 } }) (0, 0, 0, 0)
      (fun t => (t.work.countl.getD 2 0, t.work.countl.getD 8 0, t.work.next.getD 15 0, t.work.countl.length))
      = (4, 9, 5, 16) := by decide +kernel

/-- R265, log 36: the bytes that the list of an answer does not reach are 0 in OUT, and so among the bits produced. -/
theorem test_producedBits_padded :
    let r := { answer 0 [0x03] 2 with cr := ⟨0, 0, 0, 2, 2, 0⟩ }
    r.producedBytes = [0x03, 0x00] ∧ (producedBits r).length = 10 ∧
      after (exec .s5Encode { abc 0x50 with out := Memory.empty.write 1 7, xferQ := [4096], jobQ := [r] }) [] (fun t => t.out.readBytes 0 2)
        = [0x03, 0x00] := by decide +kernel

/-- R19, R273: lengths 3 to 258 are symbols 257 to 285; symbol 23 covers the distances 3073 to 4096. -/
theorem test_parse_symbols :
    (ParseItem.copy 3 1).llSym = 257 ∧ (ParseItem.copy 258 1).llSym = 285 ∧ (ParseItem.copy 3 3072).dSym = some 22 ∧
      (ParseItem.copy 3 3073).dSym = some 23 ∧ (ParseItem.copy 3 4096).dSym = some 23 ∧
      (extraBitsOf distanceTable 4096).length = 10 ∧ extraBitsOf lengthTable 12 = [true] := by decide

/-- R101, R192: symbol 18 is 0b11 in 2 bits, symbol 3 is sent as 1; a symbol without a code sends its extra bits alone. -/
theorem test_token_items :
    after (exec (.clRep18 86) (stateA 0)) (0, 0) (fun t => (t.acc, t.nb)) = (0x15B, 9) ∧
      after (exec (.clLen 3) (stateA 0)) (0, 0) (fun t => (t.acc, t.nb)) = (1, 2) ∧
      after (exec (.clRep16 2) (stateA 0)) (0, 0) (fun t => (t.acc, t.nb)) = (2, 2) ∧
      after (exec (.clRep17 5) (stateA 0)) (0, 0) (fun t => (t.acc, t.nb)) = (5, 3) := by decide +kernel

theorem test_packedEntry :
    after (exec (.packedEntry 3 6) { bound with ci := 99 }) (0, 0) (fun t => (t.cur.histLL.entry 99, t.ci)) = (0x18006, 100) ∧
      after (exec (.packedEntry 1 0) { bound with ci := 286 }) 0 (fun t => t.cur.histD.entry 0) = 0x8000 := by decide +kernel

/-! ### The functions (V-H, V-C) -/

theorem test_hufflen :
    hufflenRef [5, 9, 12, 13, 16, 45] 15 = [4, 4, 3, 3, 3, 1] ∧ hufflenRef [1, 1, 2, 3, 5, 8, 13, 21] 4 = [4, 4, 4, 4, 3, 3, 2, 2] ∧
      hufflenRef [3, 3, 3] 15 = [2, 2, 1] ∧ hufflenRef [0, 7, 0] 15 = [0, 1, 0] ∧
      hufflenRef [1, 2, 4, 8, 16, 32, 64, 128, 256] 7 = [7, 7, 7, 7, 5, 4, 3, 2, 1] := by decide +kernel

/-- T5, V-C2, V-C8. -/
theorem test_canon :
    (canon [2, 1, 3, 3] 15).map CanonResult.codes = some [2, 0, 6, 7] ∧
      reversedCodes [2, 0, 6, 7] [2, 1, 3, 3] = [1, 0, 3, 7] ∧
      packedEntries [2, 0, 6, 7] [2, 1, 3, 3] = [0x10002, 0x08000, 0x18006, 0x18007] ∧
      (canon [3, 3, 3, 3, 3, 2, 4, 4] 15).map CanonResult.codes = some [2, 3, 4, 5, 6, 0, 14, 15] ∧
      canon [1, 1, 1] 15 = none := by decide +kernel

/-! ### Witnesses: states that meet the hypotheses of the statements, each clause at a boundary of its range -/

/-- An Outcome is a next state. -/
def isNext (o : Out) : Bool :=
  match o with
  | .next _ => true
  | _ => false

theorem witness_DecodeEncodeRoundTrip : WellFormed (.packedEntry 3#4 7#15) := by decide

theorem witness_CommandDecoderTotal :
    (cmdZero 0x80010012#32 = 0#11 ∧ cmdOp 0x80010012#32 = 2#4) ∧
      (cmdOp 0x00000003#32 = 3#4 ∧ cmdFinal 0x00000003#32 = false ∧ cmdLen 0x00000003#32 = 0#16) ∧
      cmdZero 0x00000022#32 ≠ 0#11 := by decide

theorem witness_MicroOperationTable : (0x6F#8, Instr.s6Fatal) ∈ upcTable ∧ ∀ p ∈ upcTable, p.1 ≠ 0x02#8 := by decide

theorem witness_StepRunsMicroOperation :
    (at' Upc.s7Update).wire = none ∧ (at' Upc.s7Update).upc ≠ Upc.idle ∧ decodeUpc (at' Upc.s7Update).upc = .ok .s7Update := by
  decide

theorem witness_StepRunsCommand :
    let s := { bound with script := [.csrWrite 0 0x00400012#32] }
    s.wire = none ∧ s.upc = Upc.idle ∧ s.script = .csrWrite 0 0x00400012#32 :: [] ∧
      decodeCommand 0x00400012#32 = .ok (.writeBlock true 64#16) := by decide

theorem witness_StepRunsWireItem :
    let s := { bound with wire := some ⟨.clsym, 0x50#32⟩ }
    s.wire = some ⟨.clsym, 0x50#32⟩ ∧ decodeWire ⟨.clsym, 0x50#32⟩ = some (.clRep16 2#2) ∧
      decodeWire ⟨.clsym, 19#32⟩ = none := by decide

theorem witness_EveryInstructionAnswers :
    (bound.wire = none ∧ decodeUpc bound.upc = .ok .idle) ∧
      { bound with wire := some ⟨.blkhdr3, 5⟩ }.wire = some ⟨.blkhdr3, 5⟩ ∧ decodeWire ⟨.blkhdr3, 5⟩ = some (.hdrDynamic true) := by
  decide

theorem witness_CommandWrite :
    bound.upc = Upc.idle ∧ (at' Upc.faulted).upc = Upc.faulted ∧
      (at' Upc.s5Encode).upc ≠ Upc.idle ∧ (at' Upc.s5Encode).upc ≠ Upc.faulted := by decide

theorem witness_IdleTakesTheHostsTurn :
    bound.upc = Upc.idle ∧ bound.script = [] ∧ bound.memoryInv ∧
      { bound with script := [.csrWrite 0 1] }.script = .csrWrite 0 1 :: [] ∧
      { bound with script := [.csrWrite 4 1] }.script = .csrWrite 4 1 :: [] ∧
      (List.replicate 32768 0#8).length ≤ 32768 ∧
      { bound with script := [.attachSource ⟨[], .ended⟩] }.script = .attachSource ⟨[], .ended⟩ :: [] :=
  ⟨rfl, rfl, ⟨rfl, rfl, rfl, rfl⟩, rfl, rfl, by rw [List.length_replicate], rfl⟩

theorem witness_OnlyHardwareResetLeavesTheFaultState :
    let s := { at' Upc.faulted with fault := true, script := [.csrWrite 0 1] }
    s.wire = none ∧ s.fault = true ∧ s.upc = Upc.faulted ∧ ∀ ready, HostAction.hardwareReset ready ∉ s.script := by decide

theorem witness_HardwareReset :
    { bound with script := [.hardwareReset false] }.script = .hardwareReset false :: [] := rfl

theorem witness_RegistersRead : (0x21 : Nat) > 0x20 ∧ 0x1D % 4 ≠ 0 := by decide

/-- Every branch of CHECK on WRITE_BLOCK, N at 0, 32768 and 32769. -/
theorem witness_CheckWriteBlock :
    decodeCommand (checking 0x00000022).cmd = .error .reservedBits ∧
      decodeCommand (checking 0x80000002).cmd = .ok (.writeBlock false 32768#16) ∧
      decodeCommand (checking 0x80010002).cmd = .ok (.writeBlock false 32769#16) ∧
      decodeCommand (checking 0x00000012).cmd = .ok (.writeBlock true 0#16) := by decide

theorem witness_CloseCommand :
    decodeCommand (checking 0x00000013).cmd = .error .operandNotAllowed ∧ decodeCommand (checking 0x00000003).cmd = .ok .close ∧
      { checking 0x00000003 with closed := true }.closed = true ∧ (checking 0x00000003).nodev = false := by decide

theorem witness_ResetCommand : decodeCommand (checking 0x00000001).cmd = .ok .reset := by decide

/-- The clauses of READ_ALL's loop head, the source at 32769, 32768, 32767 and 0 bytes. -/
theorem witness_ReadAllCommand :
    decodeCommand (checking 0x00000004).cmd = .ok .readAll ∧
      { at' Upc.xReadall with work := { Work.zero with bf := true } }.work.bf = true ∧ (at' Upc.xReadall).work.bf = false ∧
      32768 < (Source.mk (List.replicate 32769 0#8) .pending).bytes.length ∧
      (Source.mk (List.replicate 32768 0#8) .ended).bytes.length = 32768 ∧
      (Source.mk (List.replicate 32767 0#8) .ended).bytes.length < 32768 ∧
      (Source.mk (List.replicate 32768 0#8) .failed).bytes.length ≤ 32768 ∧ (Source.mk [] .pending).bytes.length ≤ 32768 :=
  ⟨by decide, rfl, rfl, by rw [List.length_replicate]; decide, by rw [List.length_replicate],
    by rw [List.length_replicate]; decide, by rw [List.length_replicate], by decide⟩

/-- No answer; too small by one; just large enough, with success and without. -/
theorem witness_StatisticsJob :
    (abc 0x20).xferQ = [] ∧ (abc 0x20).jobQ = [] ∧ (abc 0x20).memoryInv ∧ (2 : Nat) < (abc 0x20).work.n.toNat ∧
      (abc 0x20).work.n.toNat ≤ 3 ∧ { abc 0x20 with xferQ := [3], jobQ := [answer 0 [] 0] }.jobQ = answer 0 [] 0 :: [] ∧
      (answer 0 [] 0).cr.status = par.success ∧ (answer 9 [] 0).cr.status ≠ par.success :=
  ⟨rfl, rfl, ⟨rfl, rfl, rfl, rfl⟩, by decide, by decide, rfl, by decide, by decide⟩

theorem witness_EndOfBlockSymbolIsUsed : (at' Upc.s3Eob).memoryInv := ⟨rfl, rfl, rfl, rfl⟩

/-- No used symbol, one, two, and as many as the cap allows. -/
theorem witness_HufflenMeetsContract :
    usedCount [0, 0, 0] ≤ 1 ∧ usedCount [0, 7, 0] ≤ 1 ∧ 2 ≤ usedCount [1, 1] ∧ usedCount [1, 1] ≤ 2 ^ 1 ∧
      2 ≤ usedCount [1, 1, 2, 3, 5, 8, 13, 21] ∧ usedCount [1, 1, 2, 3, 5, 8, 13, 21] ≤ 2 ^ 3 := by decide

theorem witness_CodeLengthsAreComplete :
    (∃ t, exec .s3HgenLl { at' 0x31 with aecs0 := { Aecs.zero with histLL := histA } } = .next t) ∧
      2 ≤ usedCount { at' 0x31 with aecs0 := { Aecs.zero with histLL := histA } }.freqLL ∧
      2 ≤ usedCount { at' 0x32 with aecs0 := { Aecs.zero with histD := (Memory.empty.setEntry 0 1).setEntry 29 1 } }.freqD ∧
      usedCount (at' 0x32).freqD = 0 ∧ (∃ t, exec .s3HgenD (at' 0x32) = .next t) ∧
      (∃ t, exec .s4HgenCl (at' 0x41) = .next t) ∧ 2 ≤ usedCount (arrayNat 19 [1#9, 1#9]) :=
  ⟨⟨_, rfl⟩, by decide +kernel, by decide +kernel, by decide +kernel, ⟨_, rfl⟩, ⟨_, rfl⟩, by decide +kernel⟩

theorem witness_CanonFitsUnderKraft : (∀ l ∈ [2, 1, 3, 3, 0], l ≤ 3) ∧ kraftSum 3 [2, 1, 3, 3, 0] ≤ 2 ^ 3 := by decide

theorem witness_CanonIsPrefixFree :
    (∀ l ∈ [2, 1, 3, 3], l ≤ 3) ∧ kraftSum 3 [2, 1, 3, 3] ≤ 2 ^ 3 ∧ 0 < [2, 1, 3, 3].getD 1 0 ∧
      [2, 1, 3, 3].getD 1 0 ≤ [2, 1, 3, 3].getD 0 0 ∧ [2, 1, 3, 3].getD 2 0 ≤ [2, 1, 3, 3].getD 3 0 := by decide

theorem witness_CanonicalTables :
    (stateA 0x33).memoryInv ∧ (stateA 0x33).conv = false ∧ kraftSum 15 (arrayNat 286 (stateA 0x33).work.llLen) ≤ 2 ^ 15 ∧
      kraftSum 15 (arrayNat 30 (stateA 0x34).work.dLen) ≤ 2 ^ 15 ∧ kraftSum 7 (arrayNat 19 (stateA 0x42).work.clLen) ≤ 2 ^ 7 :=
  ⟨⟨rfl, rfl, rfl, rfl⟩, rfl, by decide +kernel, by decide +kernel, by decide +kernel⟩

theorem witness_ReconversionIsAFault : { at' 0x33 with conv := true }.conv = true := rfl

theorem witness_PackedEntryFields : (15 ≤ 15 ∧ 0x7FFF < 2 ^ 15) ∧ (0 ≤ 15 ∧ 0 < 2 ^ 0) := by decide

/-- The first and the last symbol of each table, and the one past them. -/
theorem witness_PackedEntryWritesItsSymbol :
    bound.ci.toNat < 286 ∧ { bound with ci := 285 }.ci.toNat < 286 ∧
      (286 ≤ { bound with ci := 286 }.ci.toNat ∧ { bound with ci := 286 }.ci.toNat < 316) ∧
      (286 ≤ { bound with ci := 315 }.ci.toNat ∧ { bound with ci := 315 }.ci.toNat < 316) ∧
      316 ≤ { bound with ci := 316 }.ci.toNat ∧ bound.memoryInv :=
  ⟨by decide, by decide, by decide, by decide, by decide, rfl, rfl, rfl, rfl⟩

theorem witness_CountsAreMinimal :
    (∃ t, exec .s4Tokenize (stateA 0x40) = .next t) ∧ ∃ t, exec .s4CanonCl (stateA 0x42) = .next t ∧ t.fault = false :=
  ⟨⟨_, rfl⟩, _, rfl, by decide +kernel⟩

/-- Every instruction of the statement, from a clear accumulator; and the last bit that the cap allows. -/
theorem witness_HeaderWritesAppendTheirFields :
    (stateA 0x43).memoryInv ∧ (stateA 0x43).accumulatorFits ∧
      [Instr.s4Prefix, .s4Blkhdr, .s4Counts, .s4Cllens, .s4Seq, .hdrDynamic true, .clLen 3, .clRep16 3, .clRep17 7,
          .clRep18 127].all
        (fun i => match (stateA 0x43).fieldsOf i with
          | some p => decide ((stateA 0x43).total.toNat + fieldsLength p.1 ≤ 2048)
          | none => false) = true ∧
      (2045 : Nat) + fieldsLength [field 5 3] ≤ 2048 ∧
      { at' 0x44 with total := 2045, nb := 29, outp := 252 }.accumulatorFits :=
  ⟨⟨rfl, rfl, rfl, rfl⟩, ⟨by decide, by decide, rfl, rfl, by decide⟩, by decide +kernel, by decide,
    ⟨by decide, by decide, rfl, rfl, by decide⟩⟩

theorem witness_HeaderCapIsAFault :
    { at' 0x44 with total := 2046, nb := 30, outp := 252 }.accumulatorFits ∧
      (at' 0x44).fieldsOf .s4Blkhdr = some ([field 4 3], Upc.s4Counts) ∧ 2048 < 2046 + fieldsLength [field 4 3] :=
  ⟨⟨by decide, by decide, rfl, rfl, by decide⟩, rfl, by decide⟩

/-- An empty accumulator, and a full region. -/
theorem witness_FlushRecordsTheHeader :
    (at' 0x48).memoryInv ∧ (at' 0x48).accumulatorFits ∧ { at' 0x48 with total := 2048, nb := 32, outp := 252 }.accumulatorFits :=
  ⟨⟨rfl, rfl, rfl, rfl⟩, ⟨by decide, by decide, rfl, rfl, by decide⟩, ⟨by decide, by decide, rfl, rfl, by decide⟩⟩

/-- Block A: 108 bits (R192). -/
theorem witness_WholeHeader :
    (stateA 0x43).wire = none ∧ (stateA 0x43).upc = Upc.s4Prefix ∧ (stateA 0x43).memoryInv ∧ (stateA 0x43).accumulatorClear ∧
      (stateA 0x43).work.nclen.toNat ≤ 19 ∧ fieldsLength (stateA 0x43).headerFields = 108 :=
  ⟨rfl, rfl, ⟨rfl, rfl, rfl, rfl⟩, ⟨rfl, rfl, rfl, rfl⟩, by decide, by decide +kernel⟩

/-- No answer; OUT_CAP above the maximum by one; both just within it. -/
theorem witness_EncodeJob :
    (abc 0x50).xferQ = [] ∧ (abc 0x50).memoryInv ∧ (4095 : Nat) < (abc 0x50).par.outCap ∧ (abc 0x50).par.outCap ≤ 4096 ∧
      (abc 0x50).work.n.toNat ≤ 4096 ∧
      { abc 0x50 with xferQ := [4096], jobQ := [answer 0 [0x15] 5] }.jobQ = answer 0 [0x15] 5 :: [] ∧
      (answer 0 [0x15] 5).cr.produced.toNat ≤ par.outCap :=
  ⟨rfl, ⟨rfl, rfl, rfl, rfl⟩, by decide, by decide, by decide, rfl, by decide⟩

theorem witness_EmitCarry :
    (at' 0x61).cr.produced.toNat = 0 ∧ (at' 0x61).sinkAccepts = true ∧
      1 ≤ { at' 0x61 with cr := ⟨0, 0, 0, 1, 5, 0⟩ }.cr.produced.toNat ∧
      { at' 0x61 with cr := ⟨0, 0, 0, 4096, 5, 0⟩ }.cr.produced.toNat ≤ (at' 0x61).par.outCap := by decide

theorem witness_EmitAll :
    { at' 0x62 with cr := ⟨0, 0, 0, 4096, 0, 0⟩ }.cr.produced.toNat ≤ (at' 0x62).par.outCap ∧
      { at' 0x62 with sinkQ := [.accept] }.sinkAccepts = true := by decide

theorem witness_StoredFallback :
    { at' 0x63 with work := { Work.zero with n := 32768 } }.work.n.toNat ≤ 32768 ∧ (at' 0x63).sinkAccepts = true := by decide

theorem witness_StoredBlockBytes : (List.replicate 32768 0#8).length ≤ 32768 ∧ ([] : List Byte).length ≤ 32768 :=
  ⟨by rw [List.length_replicate], by decide⟩

theorem witness_UpdateEndsTheBlock :
    (abc 0x70).work.n.toNat ≤ 32768 ∧ cmdOp { abc 0x70 with cmd := 0x00030002 }.cmd ≠ 4#4 ∧
      cmdOp { abc 0x70 with cmd := 4 }.cmd = 4#4 := by decide

theorem witness_ZeroLengthBlock :
    (at' 0x80).sinkAccepts = true ∧ cmdOp { at' 0x80 with cmd := 0x12 }.cmd ≠ 4#4 ∧ cmdOp { at' 0x80 with cmd := 4 }.cmd = 4#4 := by
  decide

theorem witness_SinkErrorEndsTheCommand :
    let s := { abc 0x63 with sinkQ := [.fail 2], cr := ⟨0, 0, 0, 1, 5, 0⟩ }
    s.sinkQ = .fail 2 :: [] ∧ 1 ≤ s.cr.produced.toNat ∧ s.cr.produced.toNat ≤ s.par.outCap ∧ s.work.n.toNat ≤ 32768 ∧
      s.upc ≠ Upc.faulted := by decide

theorem witness_BitContinuity :
    let s := { abc 0x61 with cb := 0b1011011, cbn := 7, cr := ⟨0, 0, 0, 1, 5, 0⟩ }
    s.sinkAccepts = true ∧ s.cb.toNat < 2 ^ s.cbn.toNat ∧ s.work.n.toNat ≤ 32768 ∧ 1 ≤ s.cr.produced.toNat ∧
      s.cr.produced.toNat ≤ s.par.outCap ∧
      [Instr.s6EmitCarry, .s6EmitAll, .s6Stored, .zStored].all (fun i => isNext (exec i s)) = true := by decide +kernel

theorem witness_SinkBound :
    let s := { abc 0x61 with cb := 0b1011011, cbn := 7, cr := ⟨0, 0, 0, 8, 5, 0⟩ }
    s.sinkAccepts = true ∧ s.work.n.toNat ≤ 32768 ∧ s.cr.produced.toNat ≤ s.work.n.toNat + 5 ∧
      after (exec .s6EmitCarry s) 0 State.upc = Upc.s7Update ∧ after (exec .s6EmitAll s) 0 State.upc = Upc.s7Update ∧
      isNext (exec .s6Stored s) = true ∧ isNext (exec .zStored s) = true := by decide +kernel

theorem witness_RunningChecksum :
    let s := { abc 0x70 with cr := ⟨0, 0, 0, 0, 0, 0x352441C2⟩ }
    s.work.n.toNat ≤ 32768 ∧ s.cr.status = s.par.success ∧ s.cr.crc = crc32upd s.crc s.block ∧ isNext (exec .s7Update s) = true := by
  decide +kernel

theorem witness_StepKeepsMemoryCanonical :
    { abc 0x80 with inMem := Memory.empty }.memoryInv ∧ isNext (step { abc 0x80 with inMem := Memory.empty }) = true :=
  ⟨⟨rfl, rfl, rfl, rfl⟩, by decide +kernel⟩

theorem witness_StepKeepsAccumulatorInv :
    { at' 0x44 with acc := 5, nb := 3, total := 3 }.accumulatorInv ∧
      isNext (step { at' 0x44 with acc := 5, nb := 3, total := 3 }) = true :=
  ⟨⟨rfl, ⟨by decide, by decide, rfl, rfl, by decide⟩, fun h => absurd h (by decide)⟩, by decide +kernel⟩

theorem witness_StepKeepsStreamInv :
    { at' 0x61 with cr := ⟨0, 0, 0, 1, 5, 0⟩ }.streamInv ∧ isNext (step { at' 0x61 with cr := ⟨0, 0, 0, 1, 5, 0⟩ }) = true :=
  ⟨⟨rfl, by decide, by decide, by decide, fun _ => ⟨⟨rfl, rfl, rfl, rfl⟩, rfl⟩, fun h => absurd h (by decide), by unfold State.carryFits; decide,
      by decide, by decide, by decide⟩, by decide +kernel⟩

theorem witness_CommandEndsWithin25 :
    let s := { checking 0x00030002 with xferQ := [9, 9], jobQ := [answer 0 [] 0, answer 0 [] 0] }
    s.wire = none ∧ s.upc = Upc.check ∧ cmdOp s.cmd ≠ 4#4 ∧ 2 ≤ s.xferQ.length ∧ 2 ≤ s.jobQ.length := by decide

theorem witness_SinkIsAppendOnly :
    (abc 0x63).upc ≠ Upc.xReset ∧ (abc 0x63).script = [] ∧ isNext (step (abc 0x63)) = true := by decide +kernel

theorem witness_OtherInstanceIsUntouched : (abc 0x10).busy = true ∧ isNext (step (abc 0x10)) = true := by decide +kernel

/-- Two streams that differ in their registers, tables, OUT and sinks. -/
theorem witness_ResetForgetsTheEarlierStream :
    let s := at' Upc.xReset
    let t :=
      { at' Upc.xReset with
        cb := 7, cbn := 3, crc := 5, tgl := true, err := true, sink := [1], work := workA
        aecs1 := { Aecs.zero with histLL := histA } }
    s.upc = Upc.xReset ∧ t.upc = Upc.xReset ∧ s.memoryInv ∧ t.memoryInv ∧ State.sameInputs s t ∧ s.fault = t.fault ∧
      ∃ a, Host.Core.run core (0 + 1) s = .next a :=
  ⟨rfl, rfl, ⟨rfl, rfl, rfl, rfl⟩, ⟨rfl, rfl, rfl, by decide +kernel⟩, ⟨rfl, rfl, rfl, rfl, rfl, rfl, rfl, rfl, rfl, rfl⟩, rfl,
    _, rfl⟩

/-- WRITE_BLOCK 32769: E_SIZE after one step. -/
theorem witness_FailedBlockLeavesTheStream :
    let s := checking 0x80010002
    s.wire = none ∧ s.upc = Upc.check ∧ cmdOp s.cmd ≠ 4#4 ∧ cmdOp s.cmd ≠ 1#4 ∧
      (∀ j, j < 1 → RunsTo j s fun u => u.upc ≠ Upc.idle) ∧
      ∃ t, Host.Core.run core 1 s = .next t ∧ t.upc = Upc.idle ∧ t.eclass ≠ 0 ∧ t.eclass ≠ 6 := by
  refine ⟨rfl, rfl, by decide, by decide, fun j hj => ?_, _, rfl, by decide +kernel, by decide +kernel, by decide +kernel⟩
  obtain rfl : j = 0 := by omega
  exact ⟨_, rfl, by decide⟩

/-- Three carried bits before block A; the job answers with overflow, and then with a job whose output begins with the header. -/
theorem witness_CarriedBitsReachTheStream :
    let s := { stateA Upc.s4Prefix with cb := 7, cbn := 3, xferQ := [4096], jobQ := [answer 1 [] 0] }
    let bytes := [0x2F, 0x00, 0x0E, 0x08, 0x00, 0x00, 0x00, 0x10, 0x04, 0x6D, 0xC5, 0xFE, 0x7F, 0x08]
    s.wire = none ∧ s.upc = Upc.s4Prefix ∧ s.memoryInv ∧ s.accumulatorClear ∧ s.carryFits ∧ s.sinkAccepts = true ∧
      s.work.n.toNat ≤ 32768 ∧ s.work.nclen.toNat ≤ 19 ∧ fieldsLength s.headerFields ≤ 2048 ∧ s.xferQ = 4096 :: [] ∧
      s.work.n.toNat ≤ 4096 ∧ s.par.outCap ≤ 4096 ∧ s.jobQ = answer 1 [] 0 :: [] ∧
      ((answer 1 [] 0).submitStatus = none ∧ (answer 0 bytes 7).submitStatus = none) ∧
      ((answer 1 [] 0).cr.status, (answer 1 [] 0).cr.error) ∈ s.par.overflowSet ∧
      (1 ≤ (answer 0 bytes 7).cr.produced.toNat ∧ (answer 0 bytes 7).cr.produced.toNat ≤ s.par.outCap ∧
        s.headerFields.flatMap fieldBits <+: producedBits (answer 0 bytes 7)) :=
  ⟨rfl, rfl, ⟨rfl, rfl, rfl, rfl⟩, ⟨rfl, rfl, rfl, rfl⟩, by unfold State.carryFits; decide, rfl, by decide, by decide,
    by decide +kernel, rfl, by decide, by decide, rfl, ⟨rfl, rfl⟩, by decide, by decide, by decide, by decide +kernel⟩

end Sys2Proof.Tests
end

/-! Proofs of the statements about the state and the step (spec/10_state.md). -/

namespace Sys2Proof.Machine

/-! ### The table of UPC and the step (R30, R31) -/

theorem encode_of_mem_upcTable : ∀ p ∈ upcTable, encode p.2 = upcWord p.1 := by decide

theorem decodeUpc_of_mem_upcTable : ∀ p ∈ upcTable, decodeUpc p.1 = .ok p.2 := by decide

theorem decodeUpc_ok_iff (u : BitVec 8) (i : Instr) : decodeUpc u = .ok i ↔ (u, i) ∈ upcTable := by
  refine ⟨fun h => ?_, decodeUpc_of_mem_upcTable (u, i)⟩
  unfold decodeUpc at h
  split at h
  · next j hj =>
    obtain ⟨l₁, l₂, happ, -⟩ := List.lookup_eq_some_iff.mp hj
    cases h
    simp [happ]
  · cases h

theorem decodeUpc_of_notMem (u : BitVec 8) (h : ∀ i, (u, i) ∉ upcTable) : decodeUpc u = .error .reservedUpc := by
  cases hd : decodeUpc u with
  | ok i => exact absurd ((decodeUpc_ok_iff u i).mp hd) (h i)
  | error e =>
    unfold decodeUpc at hd
    split at hd <;> cases hd
    rfl

theorem upcWord_injective {u v : BitVec 8} (h : upcWord u = upcWord v) : u = v := by
  have hbits : u.setWidth 32 = v.setWidth 32 := congrArg Encoded.bits h
  simpa using congrArg (BitVec.setWidth 8) hbits

theorem encode_of_decodeUpc {u : BitVec 8} {i : Instr} (h : decodeUpc u = .ok i) : encode i = upcWord u :=
  encode_of_mem_upcTable (u, i) ((decodeUpc_ok_iff u i).mp h)

theorem step_eq_exec_of_fetchCommand_none {s : State} {i : Instr} (hw : s.wire = none) (hc : fetchCommand s = none)
    (hd : decodeUpc s.upc = .ok i) : step s = exec i s := by
  simp [step, fetch, hw, hc, fetchUpc, hd]

theorem fetchCommand_of_upc_ne_idle {s : State} (h : s.upc ≠ Upc.idle) : fetchCommand s = none := by
  simp [fetchCommand, h]

/-- Outside IDLE the host's script has no say in which micro-operation runs. -/
theorem step_eq_exec {s : State} {i : Instr} (hw : s.wire = none) (hu : s.upc ≠ Upc.idle) (hd : decodeUpc s.upc = .ok i) :
    step s = exec i s :=
  step_eq_exec_of_fetchCommand_none hw (fetchCommand_of_upc_ne_idle hu) hd

/-- No arm of the dispatch stops the model. -/
theorem exec_next (i : Instr) (s : State) : ∃ t, exec i s = .next t := by
  cases i <;> exact ⟨_, rfl⟩

/-- Settles O4: the table decides by its rows; off the table the lookup finds nothing. -/
theorem microOperationTable : Obligations.MicroOperationTable :=
  ⟨rfl, by decide, by decide, fun u => ⟨fun i => (decodeUpc_ok_iff u i).mpr, decodeUpc_of_notMem u⟩⟩

/-- Settles O5: an illegal word, and every other action of the host, leaves the step to UPC. -/
theorem stepRunsMicroOperation : Obligations.StepRunsMicroOperation := by
  intro s i hw hillegal hd
  refine step_eq_exec_of_fetchCommand_none hw (Option.eq_none_iff_forall_ne_some.mpr fun ⟨j, s'⟩ hc => ?_) hd
  obtain ⟨w, q, hu, hq, hj, -⟩ := fetchCommand_some s j s' hc
  obtain ⟨e, he⟩ := hillegal w q hu hq
  simp [hj] at he

/-- Settles O8, by what a step can do. -/
theorem everyInstructionAnswers : Obligations.EveryInstructionAnswers := by
  refine ⟨exec_next, fun s hwire hupc => ?_⟩
  rcases step_cases s with ⟨_, i, _, _, h⟩ | ⟨w, hw, hd, -⟩ | ⟨i, s', _, _, h⟩ | ⟨i, _, _, _, h⟩ | ⟨e, hw, _, hd, -⟩
  · exact h ▸ exec_next i _
  · obtain ⟨i, hi⟩ := hwire w hw
    simp [hd] at hi
  · exact h ▸ exec_next i s'
  · exact h ▸ exec_next i s
  · obtain ⟨i, hi⟩ := hupc hw
    simp [hd] at hi

/-- Settles O29: the test of CONV comes first. -/
theorem reconversionIsAFault : Obligations.ReconversionIsAFault := by
  intro s hconv
  show execS3CanonLl s = _
  simp [execS3CanonLl, hconv, State.enterFault]

/-! ### The registers as the host reads them (R35, R36) -/

/-- Every bit of a register that holds one field alone; a flag is a field of one bit. -/
theorem getLsbD_fieldAt {w : Nat} (v : BitVec w) (k i : Nat) :
    (fieldAt v k).getLsbD i = (decide (k ≤ i) && decide (i < 32) && v.getLsbD (i - k)) := by
  by_cases hk : i < k
  · simp [fieldAt, hk]
  · by_cases hi : i < 32
    · simp [fieldAt, hk, hi]; omega
    · simp [fieldAt, hi]

theorem getLsbD_bitAt (b : Bool) (k i : Nat) : (bitAt b k).getLsbD i = (decide (i = k) && decide (i < 32) && b) := by
  unfold bitAt
  by_cases h : i = k
  · subst h; simp
  · cases b
    · simp
    · simp [h]; omega

theorem extractLsb'_fieldAt_same {w : Nat} (v : BitVec w) (k : Nat) (h : k + w ≤ 32) : (fieldAt v k).extractLsb' k w = v :=
  BitVec.eq_of_getLsbD_eq fun i hi => by
    have hlt : k + i < 32 := by omega
    rw [BitVec.getLsbD_extractLsb', getLsbD_fieldAt]
    simp [hi, hlt]

theorem extractLsb'_fieldAt_disjoint {w : Nat} (v : BitVec w) (k a n : Nat) (h : k + w ≤ a ∨ a + n ≤ k) :
    (fieldAt v k).extractLsb' a n = 0#n :=
  BitVec.eq_of_getLsbD_eq fun i hi => by
    have hout : a + i < k ∨ w ≤ a + i - k := by omega
    rcases hout with hbelow | habove
    · simp [BitVec.getLsbD_extractLsb', getLsbD_fieldAt, Nat.not_le.mpr hbelow]
    · simp [BitVec.getLsbD_extractLsb', getLsbD_fieldAt, BitVec.getLsbD_of_ge _ _ habove]

theorem extractLsb'_bitAt_disjoint (b : Bool) (k a n : Nat) (h : k + 1 ≤ a ∨ a + n ≤ k) :
    (bitAt b k).extractLsb' a n = 0#n :=
  extractLsb'_fieldAt_disjoint (BitVec.ofBool b) k a n h

theorem statusWord_upc (s : State) : s.statusWord.extractLsb' 8 8 = s.upc := by
  simp [State.statusWord, BitVec.extractLsb'_or, extractLsb'_fieldAt_same, extractLsb'_bitAt_disjoint]

theorem statusWord_reserved (s : State) : s.statusWord.extractLsb' 16 16 = 0 := by
  simp [State.statusWord, BitVec.extractLsb'_or, extractLsb'_fieldAt_disjoint, extractLsb'_bitAt_disjoint]

theorem statusWord_flags (s : State) (i : Nat) (hi : i < 8) :
    s.statusWord.getLsbD i = [s.busy, s.err, s.fin, s.fault, s.tgl, s.closed, s.nodev, s.bound].getD i false := by
  simp only [State.statusWord, BitVec.getLsbD_or, getLsbD_bitAt, getLsbD_fieldAt]
  interval_cases i <;> simp

theorem resultWord_fields (s : State) :
    s.resultWord.extractLsb' 0 4 = s.eclass ∧ s.resultWord.extractLsb' 4 4 = 0 ∧ s.resultWord.extractLsb' 8 8 = s.hwstatus ∧
      s.resultWord.extractLsb' 16 8 = s.hwerr ∧ s.resultWord.extractLsb' 24 8 = 0 := by
  simp [State.resultWord, BitVec.extractLsb'_or, extractLsb'_fieldAt_same, extractLsb'_fieldAt_disjoint]

theorem carryWord_fields (s : State) :
    s.carryWord.extractLsb' 0 7 = s.cb ∧ s.carryWord.extractLsb' 7 1 = 0 ∧ s.carryWord.extractLsb' 8 3 = s.cbn ∧
      s.carryWord.extractLsb' 11 21 = 0 := by
  simp [State.carryWord, BitVec.extractLsb'_or, extractLsb'_fieldAt_same, extractLsb'_fieldAt_disjoint]

theorem csrRead_no_register {s : State} {off : Nat} (h : off = 0 ∨ 0x20 < off ∨ off % 4 ≠ 0) : csrRead s off = 0 := by
  unfold csrRead
  repeat rw [if_neg (by omega)]

/-- Settles O14, field by field. -/
theorem registersRead : Obligations.RegistersRead := by
  intro s
  obtain ⟨hec, hrz, hst, her, hrz'⟩ := resultWord_fields s
  obtain ⟨hcb, hcz, hcbn, hcz'⟩ := carryWord_fields s
  have hhb : (fieldAt s.hb 0).extractLsb' 0 12 = s.hb := extractLsb'_fieldAt_same s.hb 0 (by decide)
  have hhz : (fieldAt s.hb 0).extractLsb' 12 20 = 0 := extractLsb'_fieldAt_disjoint s.hb 0 12 20 (by decide)
  have hcount : s.count.extractLsb' 32 32 ++ s.count.extractLsb' 0 32 = s.count :=
    (BitVec.extractLsb'_append_extractLsb'_eq_extractLsb' rfl).trans BitVec.extractLsb'_eq_self
  have hflag := statusWord_flags s
  exact ⟨hflag 0 (by decide), hflag 1 (by decide), hflag 2 (by decide), hflag 3 (by decide), hflag 4 (by decide),
    hflag 5 (by decide), hflag 6 (by decide), hflag 7 (by decide), statusWord_upc s, statusWord_reserved s,
    hec, hrz, hst, her, hrz', hcount, rfl, hcb, hcz, hcbn, hcz', hhb, hhz, rfl, fun off => csrRead_no_register⟩

/-! ### Hardware reset (R43, R370) -/

theorem hostTurn_hardwareReset {s : State} {ready : Bool} {q : List HostAction} (h : s.script = .hardwareReset ready :: q) :
    s.hostTurn = { s with script := q }.hardwareReset ready := by
  simp [State.hostTurn, h]

theorem hwReset_statusWord (ready : Bool) :
    (State.hwReset ready).statusWord = if ready then 0x00000000#32 else 0x00000040#32 := by
  cases ready <;> rfl

/-- Settles O12: at IDLE and at FAULT alike the step is the host's turn. -/
theorem hardwareReset : Obligations.HardwareReset := by
  intro s ready q h
  have ht := hostTurn_hardwareReset h
  exact ⟨_, congrArg Host.Outcome.next ht, congrArg Host.Outcome.next ht, rfl, rfl, rfl, rfl, rfl, rfl, rfl, rfl,
    rfl, rfl, rfl, rfl, rfl, rfl, rfl, rfl, rfl, rfl, rfl, rfl, rfl, rfl, hwReset_statusWord ready⟩

/-- Settles O13. -/
theorem resetRegistersRead : Obligations.ResetRegistersRead :=
  ⟨rfl, hwReset_statusWord true, rfl, rfl, rfl, rfl, rfl, rfl⟩

/-! ### Command words and CHECK (R91, R94, R211) -/

theorem plainCommand_ok_iff (w : Word) (i j : Instr) :
    plainCommand w i = .ok j ↔ cmdFinal w = false ∧ cmdLen w = 0#16 ∧ j = i := by
  by_cases h : cmdFinal w = false ∧ cmdLen w = 0#16
  · simp [plainCommand, h, eq_comm]
  · simp only [plainCommand, h, if_false, reduceCtorEq, false_iff]
    exact fun ⟨hf, hl, _⟩ => h ⟨hf, hl⟩

/-- What a legal command word is, by its OP. -/
theorem decodeCommand_ok_cases {w : Word} {i : Instr} (h : decodeCommand w = .ok i) :
    (cmdOp w = 1#4 ∧ i = .reset ∧ cmdFinal w = false ∧ cmdLen w = 0#16) ∨
      (cmdOp w = 2#4 ∧ i = .writeBlock (cmdFinal w) (cmdLen w)) ∨
      (cmdOp w = 3#4 ∧ i = .close ∧ cmdFinal w = false ∧ cmdLen w = 0#16) ∨
      (cmdOp w = 4#4 ∧ i = .readAll ∧ cmdFinal w = false ∧ cmdLen w = 0#16) := by
  unfold decodeCommand at h
  split_ifs at h with hz h1 h2 h3 h4
  · obtain ⟨hf, hl, rfl⟩ := (plainCommand_ok_iff w _ i).mp h
    exact .inl ⟨h1, rfl, hf, hl⟩
  · cases h
    exact .inr (.inl ⟨h2, rfl⟩)
  · obtain ⟨hf, hl, rfl⟩ := (plainCommand_ok_iff w _ i).mp h
    exact .inr (.inr (.inl ⟨h3, rfl, hf, hl⟩))
  · obtain ⟨hf, hl, rfl⟩ := (plainCommand_ok_iff w _ i).mp h
    exact .inr (.inr (.inr ⟨h4, rfl, hf, hl⟩))

/-- Every command's own step is the write of its word. -/
theorem exec_of_decodeCommand {w : Word} {i : Instr} (h : decodeCommand w = .ok i) (s : State) :
    exec i s = .next (s.writeCmd (encode i).bits) := by
  rcases decodeCommand_ok_cases h with ⟨-, rfl, -⟩ | ⟨-, rfl⟩ | ⟨-, rfl, -⟩ | ⟨-, rfl, -⟩ <;> rfl

theorem State.streamTests_ok_iff (s : State) (refused : Bool) (op op' : CheckedOp) :
    s.streamTests refused op = .ok op' ↔ s.err = false ∧ refused = false ∧ op' = op := by
  unfold State.streamTests
  cases s.err <;> cases refused <;> simp [eq_comm]

theorem State.streamOpen_of_blockRefused_false {s : State} (hn : s.nodev = false) (he : s.err = false)
    (h : s.blockRefused = false) : s.streamOpen ∧ s.fin = false := by
  simp only [State.blockRefused, Bool.or_eq_false_iff, Bool.not_eq_false'] at h
  obtain ⟨⟨hb, hc⟩, hf⟩ := h
  exact ⟨⟨hn, he, hb, hc⟩, hf⟩

theorem State.checkCommand_nodev {s : State} (hn : s.nodev = true) : s.checkCommand = .error .config := by
  unfold State.checkCommand
  rw [hn]
  rfl

theorem State.checkCommand_illegal {s : State} {e : DecodeError} (hn : s.nodev = false)
    (hd : decodeCommand s.cmd = .error e) : s.checkCommand = .error .config := by
  unfold State.checkCommand
  rw [hn, hd]
  rfl

theorem State.checkCommand_reset {s : State} (hn : s.nodev = false) (hd : decodeCommand s.cmd = .ok .reset) :
    s.checkCommand = .ok .reset := by
  unfold State.checkCommand
  rw [hn, hd]
  rfl

theorem State.checkCommand_close {s : State} (hn : s.nodev = false) (hd : decodeCommand s.cmd = .ok .close) :
    s.checkCommand = s.streamTests s.closeRefused .close := by
  unfold State.checkCommand
  rw [hn, hd]
  rfl

theorem State.checkCommand_readAll {s : State} (hn : s.nodev = false) (hd : decodeCommand s.cmd = .ok .readAll) :
    s.checkCommand = s.streamTests s.blockRefused .readAll := by
  unfold State.checkCommand
  rw [hn, hd]
  rfl

theorem State.checkCommand_writeBlock {s : State} {final : Bool} {len : BitVec 16} (hn : s.nodev = false)
    (hd : decodeCommand s.cmd = .ok (.writeBlock final len)) :
    s.checkCommand =
      s.streamTests s.blockRefused (.block final len) >>= fun op =>
        if len.toNat > blockMax then .error .size else .ok op := by
  unfold State.checkCommand
  rw [hn, hd]
  dsimp only
  cases s.streamTests s.blockRefused (.block final len) <;> rfl

/-- What a command that CHECK lets pass can be, and what the tests of a command that sends blocks have shown. -/
theorem State.checkCommand_ok_cases {s : State} {op : CheckedOp} (h : s.checkCommand = .ok op) :
    op = .reset ∨ op = .close ∨
      (op = .readAll ∧ cmdOp s.cmd = 4#4 ∧ cmdFinal s.cmd = false ∧ cmdLen s.cmd = 0#16 ∧ s.streamOpen ∧ s.fin = false) ∨
      ∃ final len, op = .block final len ∧ s.streamOpen ∧ s.fin = false := by
  have hn : s.nodev = false := by
    by_contra hn
    simp [State.checkCommand_nodev (Bool.eq_true_of_not_eq_false hn)] at h
  cases hd : decodeCommand s.cmd with
  | error e => simp [State.checkCommand_illegal hn hd] at h
  | ok i =>
    rcases decodeCommand_ok_cases hd with ⟨-, rfl, -⟩ | ⟨-, rfl⟩ | ⟨-, rfl, -⟩ | ⟨hop, rfl, hfinal, hlen⟩
    · rw [State.checkCommand_reset hn hd] at h
      exact .inl (Except.ok.inj h).symm
    · rw [State.checkCommand_writeBlock hn hd] at h
      cases ht : s.streamTests s.blockRefused (.block (cmdFinal s.cmd) (cmdLen s.cmd)) with
      | error c =>
        rw [ht] at h
        cases h
      | ok op' =>
        obtain ⟨he, hr, rfl⟩ := (s.streamTests_ok_iff _ _ _).mp ht
        have hop : CheckedOp.block (cmdFinal s.cmd) (cmdLen s.cmd) = op := by
          by_cases hsize : (cmdLen s.cmd).toNat > blockMax
          · simp [ht, bind, Except.bind, hsize] at h
          · simpa [ht, bind, Except.bind, hsize] using h
        exact .inr (.inr (.inr ⟨_, _, hop.symm, State.streamOpen_of_blockRefused_false hn he hr⟩))
    · rw [State.checkCommand_close hn hd] at h
      obtain ⟨-, -, rfl⟩ := (s.streamTests_ok_iff _ _ _).mp h
      exact .inr (.inl rfl)
    · rw [State.checkCommand_readAll hn hd] at h
      obtain ⟨he, hr, rfl⟩ := (s.streamTests_ok_iff _ _ _).mp h
      exact .inr (.inr (.inl ⟨rfl, hop, hfinal, hlen, State.streamOpen_of_blockRefused_false hn he hr⟩))

/-- CHECK on READ_ALL, past its tests. -/
def State.startReadAll (s : State) : State :=
  { s with rtotal := 0, work := { s.work with bf := false, n := 0 }, upc := Upc.xReadall }

/-- CHECK on WRITE_BLOCK, past its tests. -/
def State.startBlock (s : State) (final : Bool) (len : BitVec 16) : State :=
  { s with
    work := { s.work with bf := final, n := len }
    upc := if len = 0#16 then Upc.zStored else Upc.s1Select }

/-- What CHECK can do: end the command with the class of the first test that fires; or go on to RESET's or CLOSE's
micro-operation; or, with an open stream before its final block, to READ_ALL's loop or to a block. -/
theorem exec_check_cases (s : State) :
    (∃ c, exec .check s = .next (s.raise c 0)) ∨
      exec .check s = .next (s.goto Upc.xReset) ∨
      exec .check s = .next (s.goto Upc.xClose) ∨
      (cmdOp s.cmd = 4#4 ∧ s.streamOpen ∧ s.fin = false ∧ exec .check s = .next s.startReadAll) ∨
      ∃ final len, s.streamOpen ∧ s.fin = false ∧ exec .check s = .next (s.startBlock final len) := by
  have hexec : exec .check s = execCheck s := rfl
  simp only [hexec, execCheck]
  cases h : s.checkCommand with
  | error c => exact .inl ⟨c, rfl⟩
  | ok op =>
    refine .inr ?_
    rcases State.checkCommand_ok_cases h with rfl | rfl | ⟨rfl, hop, hfinal, hlen, ho, hf⟩ | ⟨final, len, rfl, ho, hf⟩
    · exact .inl rfl
    · exact .inr (.inl rfl)
    · exact .inr (.inr (.inl ⟨hop, ho, hf, by simp only [hfinal, hlen]; rfl⟩))
    · exact .inr (.inr (.inr ⟨final, len, ho, hf, rfl⟩))

/-! ### The course of a command: what its way through the sequence and the stream's relations depend on (R229) -/

/-- What, beside UPC and FAULT, `State.streamInv` and the way of a command through the sequence of R229
depend on. -/
structure Course where
  wire : Option WireWord
  cmd : Word
  xferQ : List Nat
  jobQ : List JobAnswer
  nodev : Bool
  err : Bool
  fin : Bool
  closed : Bool
  bound : Bool
  cb : BitVec 7
  cbn : BitVec 3
  sink : List Byte
  bf : Bool

/-- The course of a state. -/
def State.course (s : State) : Course :=
  { wire := s.wire, cmd := s.cmd, xferQ := s.xferQ, jobQ := s.jobQ, nodev := s.nodev, err := s.err, fin := s.fin,
    closed := s.closed, bound := s.bound, cb := s.cb, cbn := s.cbn, sink := s.sink, bf := s.work.bf }

@[simp] theorem State.course_goto (s : State) (u : BitVec 8) : (s.goto u).course = s.course := rfl

@[simp] theorem State.course_enterFault (s : State) (r : FaultReason) : (s.enterFault r).course = s.course := rfl

@[simp] theorem State.course_setCur (s : State) (a : Aecs) : (s.setCur a).course = s.course := by simp [State.course]

@[simp] theorem State.course_setBitWriter (s : State) (b : BitWriter) : (s.setBitWriter b).course = s.course := by
  simp [State.course]

@[simp] theorem State.course_afterJob (s : State) (j : Job) (r : JobAnswer) : (s.afterJob j r).course = s.course := by
  simp [State.course, State.afterJob]

@[simp] theorem State.afterJob_upc (s : State) (j : Job) (r : JobAnswer) : (s.afterJob j r).upc = s.upc := by
  simp [State.afterJob]

@[simp] theorem State.afterJob_fault (s : State) (j : Job) (r : JobAnswer) : (s.afterJob j r).fault = s.fault := by
  simp [State.afterJob]

/-- From `s` to `t` the course is kept, and UPC is `u` or the FAULT state is entered. -/
def State.Moves (s : State) (u : BitVec 8) (t : State) : Prop :=
  t.course = s.course ∧ (t.upc = u ∧ t.fault = s.fault ∨ t.upc = Upc.faulted ∧ t.fault = true)

theorem State.moves_goto {s t : State} {u : BitVec 8} (hc : t.course = s.course) (hf : t.fault = s.fault) :
    s.Moves u (t.goto u) :=
  ⟨hc, .inl ⟨rfl, hf⟩⟩

theorem State.moves_enterFault {s t : State} {u : BitVec 8} {r : FaultReason} (hc : t.course = s.course) :
    s.Moves u (t.enterFault r) :=
  ⟨hc, .inr ⟨rfl, rfl⟩⟩

/-- A micro-operation that first tests for a fault of the DFE. -/
theorem State.moves_unless {s t : State} {u : BitVec 8} {r : FaultReason} {failed : Prop} [Decidable failed]
    (hc : t.course = s.course) (hu : t.upc = u) (hf : t.fault = s.fault) :
    s.Moves u (if failed then s.enterFault r else t) := by
  split
  · exact State.moves_enterFault rfl
  · exact ⟨hc, .inl ⟨hu, hf⟩⟩

theorem State.moves_writeFields (s : State) (fs : List Field) (u : BitVec 8) : s.Moves u (s.writeFields fs u) := by
  rcases s.writeFields_cases fs u with ⟨b, -, h⟩ | ⟨r, b, -, h⟩
  · exact h ▸ State.moves_goto (by simp) (by simp)
  · exact h ▸ State.moves_enterFault (by simp)

/-- A micro-operation of a block that works on tables or on the header alone: whatever the state, it keeps the course and goes on
to `u`, if not to FAULT. -/
def Quiet (i : Instr) (u : BitVec 8) : Prop := ∀ s, ∃ t, exec i s = .next t ∧ s.Moves u t

theorem quiet_s1Select : Quiet .s1Select Upc.s2Stat := fun s =>
  ⟨_, rfl, State.moves_goto (s.course_setCur _) (s.setCur_fault _)⟩

theorem quiet_s3Eob : Quiet .s3Eob Upc.s3HgenLl := fun s =>
  ⟨_, rfl, State.moves_goto (by split <;> simp) (by split <;> simp)⟩

theorem quiet_s3HgenLl : Quiet .s3HgenLl Upc.s3HgenD := fun _ => ⟨_, rfl, State.moves_unless rfl rfl rfl⟩

theorem quiet_s3HgenD : Quiet .s3HgenD Upc.s3CanonLl := fun _ => ⟨_, rfl, State.moves_unless rfl rfl rfl⟩

theorem quiet_s3CanonLl : Quiet .s3CanonLl Upc.s3CanonD := by
  refine fun s => ⟨_, rfl, ?_⟩
  split
  · exact State.moves_enterFault rfl
  · dsimp only
    split
    · exact State.moves_enterFault rfl
    · exact ⟨by simp [State.course, Work.withCanon], .inl ⟨rfl, s.setCur_fault _⟩⟩

theorem quiet_s3CanonD : Quiet .s3CanonD Upc.s4Tokenize := by
  refine fun s => ⟨_, rfl, ?_⟩
  dsimp only
  split
  · exact State.moves_enterFault rfl
  · exact ⟨by simp [State.course, Work.withCanon], .inl ⟨rfl, s.setCur_fault _⟩⟩

theorem quiet_s4Tokenize : Quiet .s4Tokenize Upc.s4HgenCl := fun _ => ⟨_, rfl, rfl, .inl ⟨rfl, rfl⟩⟩

theorem quiet_s4HgenCl : Quiet .s4HgenCl Upc.s4CanonCl := fun _ => ⟨_, rfl, State.moves_unless rfl rfl rfl⟩

theorem quiet_s4CanonCl : Quiet .s4CanonCl Upc.s4Prefix := by
  refine fun s => ⟨_, rfl, ?_⟩
  split
  · exact State.moves_enterFault rfl
  · exact ⟨rfl, .inl ⟨rfl, rfl⟩⟩

theorem quiet_s4Prefix : Quiet .s4Prefix Upc.s4Blkhdr := fun s => ⟨_, rfl, s.moves_writeFields _ _⟩

theorem quiet_s4Blkhdr : Quiet .s4Blkhdr Upc.s4Counts := fun s => ⟨_, rfl, s.moves_writeFields _ _⟩

theorem quiet_s4Counts : Quiet .s4Counts Upc.s4Cllens := fun s => ⟨_, rfl, s.moves_writeFields _ _⟩

theorem quiet_s4Cllens : Quiet .s4Cllens Upc.s4Seq := fun s => ⟨_, rfl, s.moves_writeFields _ _⟩

theorem quiet_s4Seq : Quiet .s4Seq Upc.s4Flush := fun s => ⟨_, rfl, s.moves_writeFields _ _⟩

theorem quiet_s4Flush : Quiet .s4Flush Upc.s5Encode := by
  refine fun s => ⟨_, rfl, ?_⟩
  split
  · exact State.moves_enterFault (s.course_setBitWriter _)
  · next b t _ => exact ⟨((s.setBitWriter b).course_setCur _).trans (s.course_setBitWriter b), .inl ⟨rfl, by simp⟩⟩

/-- What S6.INTERPRET can do: store the block; hold bits back, from a non-final block alone; send every byte; or fail. -/
theorem exec_s6Interpret_cases (s : State) :
    exec .s6Interpret s = .next (s.takePath .stored Upc.s6Stored) ∨
      (s.work.bf = false ∧ exec .s6Interpret s = .next (s.takePath .compressed Upc.s6EmitCarry)) ∨
      exec .s6Interpret s = .next (s.takePath .compressed Upc.s6EmitAll) ∨
      exec .s6Interpret s = .next (s.goto Upc.s6Fatal) := by
  have hexec : exec .s6Interpret s = execS6Interpret s := rfl
  simp only [hexec, execS6Interpret]
  split_ifs with _ _ hcarry
  · exact .inl rfl
  · exact .inr (.inl ⟨hcarry.1, rfl⟩)
  · exact .inr (.inr (.inl rfl))
  · exact .inl rfl
  · exact .inr (.inr (.inr rfl))

/-! ### The stream's invariant: what it gives, and how to show it at each kind of place -/

/-- The relations of `State.streamInv` that hold whatever UPC is. -/
def State.streamBase (s : State) : Prop :=
  s.wire = none ∧ (s.bound = false → s.sink = []) ∧ s.carryFits ∧ (s.fin = true → s.cbn = 0)

/-- The values of UPC outside a block and READ_ALL's loop: no test of CHECK need have passed. -/
def restPlace (u : BitVec 8) : Bool :=
  (accepted (decodeUpc u)).isSome && !inBlock u && decide (u ≠ Upc.xReadall)

/-- The values of UPC inside a block. -/
def blockPlace (u : BitVec 8) : Bool := (accepted (decodeUpc u)).isSome && inBlock u

/-- The values of UPC inside a block where nothing is asked of the Carried Bits or of BF. -/
def quietPlace (u : BitVec 8) : Bool := blockPlace u && decide (u ≠ Upc.s6EmitCarry) && decide (u ≠ Upc.s7Update)

theorem State.streamBase_of_streamInv {s : State} (h : s.streamInv) : s.streamBase := by
  obtain ⟨hwire, -, -, hsink, -, -, hcarry, hfin, -, -⟩ := h
  exact ⟨hwire, hsink, hcarry, hfin⟩

theorem State.fault_iff_of_streamInv {s : State} (h : s.streamInv) : s.fault = true ↔ s.upc = Upc.faulted := by
  obtain ⟨-, -, hfault, -⟩ := h
  exact hfault

theorem State.unfaulted_of_streamInv {s : State} (h : s.streamInv) (hu : s.upc ≠ Upc.faulted) : s.fault = false := by
  simpa using mt (State.fault_iff_of_streamInv h).mp hu

theorem ne_faulted_of_inBlock {u : BitVec 8} (h : inBlock u = true) : u ≠ Upc.faulted := by
  rintro rfl
  exact absurd h (by decide)

theorem inBlock_of_upc {s : State} {u : BitVec 8} (hu : s.upc = u) (h : inBlock u = true) : inBlock s.upc = true := hu ▸ h

theorem State.streamOpen_of_inBlock {s : State} (h : s.streamInv) (hu : inBlock s.upc = true) :
    s.streamOpen ∧ s.fin = false := by
  obtain ⟨-, -, -, -, hblock, -⟩ := h
  exact hblock hu

theorem State.streamOpen_of_loopHead {s : State} (h : s.streamInv) (hu : s.upc = Upc.xReadall) :
    s.streamOpen ∧ s.fin = s.work.bf := by
  obtain ⟨-, -, -, -, -, hloop, -⟩ := h
  exact hloop hu

theorem State.nonfinal_of_emitCarry {s : State} (h : s.streamInv) (hu : s.upc = Upc.s6EmitCarry) : s.work.bf = false := by
  obtain ⟨-, -, -, -, -, -, -, -, hemit, -⟩ := h
  exact hemit hu

theorem State.final_carry_of_update {s : State} (h : s.streamInv) (hu : s.upc = Upc.s7Update) :
    s.work.bf = true → s.cbn = 0 := by
  obtain ⟨-, -, -, -, -, -, -, -, -, hupdate⟩ := h
  exact hupdate hu

theorem State.streamInv_of_rest {t : State} (hb : t.streamBase) (hu : restPlace t.upc = true)
    (hf : t.fault = decide (t.upc = Upc.faulted)) : t.streamInv := by
  obtain ⟨hwire, hsink, hcarry, hfin⟩ := hb
  simp only [restPlace, Bool.and_eq_true, Bool.not_eq_true', decide_eq_true_eq] at hu
  obtain ⟨⟨htable, hout⟩, hloop⟩ := hu
  have hne : ∀ v, inBlock v = true → t.upc ≠ v := fun v hv h => by simp [← h, hout] at hv
  exact ⟨hwire, htable, by simp [hf], hsink, fun h => by simp [hout] at h, fun h => absurd h hloop, hcarry, hfin,
    fun h => absurd h (hne _ rfl), fun h => absurd h (hne _ rfl)⟩

theorem State.streamInv_of_block {t : State} (hb : t.streamBase) (hu : blockPlace t.upc = true) (hf : t.fault = false)
    (ho : t.streamOpen) (hfin : t.fin = false) (hemit : t.upc = Upc.s6EmitCarry → t.work.bf = false)
    (hupdate : t.upc = Upc.s7Update → t.work.bf = true → t.cbn = 0) : t.streamInv := by
  obtain ⟨hwire, hsink, hcarry, hfin'⟩ := hb
  simp only [blockPlace, Bool.and_eq_true] at hu
  obtain ⟨htable, hin⟩ := hu
  have hne : ∀ v, inBlock v = false → t.upc ≠ v := fun v hv h => by simp [← h, hin] at hv
  exact ⟨hwire, htable, by simp [hf, hne Upc.faulted rfl], hsink, fun _ => ⟨ho, hfin⟩, fun h => absurd h (hne _ rfl), hcarry,
    hfin', hemit, hupdate⟩

/-- A block starts only with an open stream before its final block (R211). -/
theorem State.streamInv_of_blockStart {t : State} {zero : Prop} [Decidable zero] (hb : t.streamBase)
    (hu : t.upc = if zero then Upc.zStored else Upc.s1Select) (hf : t.fault = false) (ho : t.streamOpen) (hfin : t.fin = false) :
    t.streamInv := by
  by_cases hz : zero <;> simp only [hz, if_true, if_false] at hu <;>
    exact State.streamInv_of_block hb (hu ▸ rfl) hf ho hfin (fun h => absurd (hu.symm.trans h) (by decide))
      (fun h => absurd (hu.symm.trans h) (by decide))

theorem State.streamInv_of_loopHead {t : State} (hb : t.streamBase) (hu : t.upc = Upc.xReadall) (hf : t.fault = false)
    (ho : t.streamOpen) (hfin : t.fin = t.work.bf) : t.streamInv := by
  obtain ⟨hwire, hsink, hcarry, hfin'⟩ := hb
  have hne : ∀ v, Upc.xReadall ≠ v → t.upc ≠ v := fun v hv h => hv (hu.symm.trans h)
  have hout : inBlock t.upc = false := by rw [hu]; rfl
  exact ⟨hwire, by rw [hu]; rfl, by simp [hf, hne Upc.faulted (by decide)], hsink, fun h => by simp [hout] at h,
    fun _ => ⟨ho, hfin⟩, hcarry, hfin', fun h => absurd h (hne _ (by decide)), fun h => absurd h (hne _ (by decide))⟩

theorem State.streamInv_congr {s t : State} (h : t.course = s.course) (hu : t.upc = s.upc) (hf : t.fault = s.fault) :
    t.streamInv ↔ s.streamInv := by
  simp only [State.course, Course.mk.injEq] at h
  simp [State.streamInv, State.carryFits, State.streamOpen, h, hu, hf]

/-! ### Every shared operation keeps the stream's invariant -/

theorem State.streamInv_goto_rest {s : State} {u : BitVec 8} (h : s.streamInv) (hu : s.upc ≠ Upc.faulted)
    (hv : restPlace u = true) (hne : u ≠ Upc.faulted) : (s.goto u).streamInv := by
  have hb := State.streamBase_of_streamInv h
  exact State.streamInv_of_rest hb hv (by simp [State.unfaulted_of_streamInv h hu, hne])

theorem State.streamInv_finish {s : State} (n : BitVec 64) (h : s.streamInv) (hu : s.upc ≠ Upc.faulted) :
    (s.finish n).streamInv :=
  State.streamInv_goto_rest (s := s.setResult .ok 0 0 n) h hu rfl (by decide)

theorem State.streamInv_raise {s : State} (c : ErrClass) (n : BitVec 64) (h : s.streamInv) (hu : s.upc ≠ Upc.faulted) :
    (s.raise c n).streamInv := by
  have hb := State.streamBase_of_streamInv h
  have hf := State.unfaulted_of_streamInv h hu
  exact State.streamInv_of_rest hb rfl hf

theorem State.streamInv_raiseBlock {s : State} (c : ErrClass) (h : s.streamInv) (hu : s.upc ≠ Upc.faulted) :
    (s.raiseBlock c).streamInv :=
  State.streamInv_raise c s.abandonCount h hu

theorem State.streamInv_enterFault {s : State} (r : FaultReason) (h : s.streamInv) : (s.enterFault r).streamInv := by
  have hb := State.streamBase_of_streamInv h
  exact State.streamInv_of_rest hb rfl rfl

/-- The next micro-operation of a block. -/
theorem State.streamInv_goto_block {s : State} {u : BitVec 8} (h : s.streamInv) (hin : inBlock s.upc = true)
    (hu : quietPlace u = true) : (s.goto u).streamInv := by
  obtain ⟨ho, hfin⟩ := State.streamOpen_of_inBlock h hin
  simp only [quietPlace, Bool.and_eq_true, decide_eq_true_eq] at hu
  obtain ⟨⟨hblock, hemit⟩, hupdate⟩ := hu
  have hb := State.streamBase_of_streamInv h
  have hf := State.unfaulted_of_streamInv h (ne_faulted_of_inBlock hin)
  exact State.streamInv_of_block hb hblock hf ho hfin (fun h => absurd h hemit) (fun h => absurd h hupdate)

theorem State.Moves.keeps_streamInv {s t : State} {u : BitVec 8} (hm : s.Moves u t) (h : s.streamInv)
    (hin : inBlock s.upc = true) (hu : quietPlace u = true) : t.streamInv := by
  obtain ⟨hc, ⟨hupc, hf⟩ | ⟨hupc, hf⟩⟩ := hm
  · exact (State.streamInv_congr (s := s.goto u) hc hupc hf).mpr (State.streamInv_goto_block h hin hu)
  · exact (State.streamInv_congr (s := s.enterFault .outOfRegion) hc hupc hf).mpr (State.streamInv_enterFault _ h)

theorem Quiet.keeps_streamInv {i : Instr} {u : BitVec 8} {s t : State} (hq : Quiet i u) (h : s.streamInv)
    (hin : inBlock s.upc = true) (hu : quietPlace u = true) (ht : exec i s = .next t) : t.streamInv := by
  obtain ⟨t', ht', hm⟩ := hq s
  obtain rfl : t' = t := by simpa [ht'] using ht
  exact hm.keeps_streamInv h hin hu

/-- What follows a job need only be looked at from the state that the job's return leaves, which keeps the invariant. -/
theorem State.streamInv_submit {s : State} {j : Job} {fits : Nat → Bool} {done : State → State} (h : s.streamInv)
    (hin : inBlock s.upc = true) (hdone : ∀ t : State, t.streamInv → t.upc = s.upc → (done t).streamInv) :
    (s.submit j fits done).streamInv := by
  rcases s.submit_cases j fits done with ⟨hs, -⟩ | ⟨m, q, -, -, hs⟩ | ⟨m, q, r, q', -, -, -, hs⟩ <;> rw [hs]
  · exact h
  · exact State.streamInv_raiseBlock .size (s := { s with xferQ := q, maxxfer := BitVec.ofNat 32 m }) h
      (ne_faulted_of_inBlock hin)
  · have hq : State.streamInv { s with xferQ := q, maxxfer := BitVec.ofNat 32 m, jobQ := q' } := h
    exact hdone _ ((State.streamInv_congr (State.course_afterJob _ j r) (by simp) (by simp)).mpr hq) (by simp)

/-- What follows an append need only be looked at from the state that the append leaves, which keeps the invariant: a block runs
with a sink bound. -/
theorem State.streamInv_emit {s : State} {bytes : List Byte} {next : State → State} (h : s.streamInv)
    (hin : inBlock s.upc = true)
    (hnext : ∀ b q, State.streamInv { s with sink := b, sinkQ := q } → (next { s with sink := b, sinkQ := q }).streamInv) :
    (s.emit bytes next).streamInv := by
  have happend : ∀ b q, State.streamInv { s with sink := b, sinkQ := q } := by
    obtain ⟨⟨-, -, hbound, -⟩, -⟩ := State.streamOpen_of_inBlock h hin
    obtain ⟨hwire, htable, hfault, -, hrest⟩ := h
    exact fun b q => ⟨hwire, htable, hfault, fun hb => by simp [hbound] at hb, hrest⟩
  rcases s.emit_cases bytes next with ⟨q, hs, -⟩ | ⟨k, q, -, hs⟩ <;> rw [hs]
  · exact hnext _ q (happend _ q)
  · exact State.streamInv_raiseBlock .sink (happend _ q) (ne_faulted_of_inBlock hin)

/-- The end of a block whose last bit, where it is the final one, has gone out with it (R243). -/
theorem State.streamInv_endBlock {s : State} (n : BitVec 64) (h : s.streamInv) (hin : inBlock s.upc = true)
    (hfinal : s.work.bf = true → s.cbn = 0) : (s.endBlock n).streamInv := by
  obtain ⟨ho, -⟩ := State.streamOpen_of_inBlock h hin
  obtain ⟨hwire, hsink, hcarry, -⟩ := State.streamBase_of_streamInv h
  have hf := State.unfaulted_of_streamInv h (ne_faulted_of_inBlock hin)
  rcases s.endBlock_cases n with ⟨-, hs⟩ | ⟨-, hs⟩ <;> rw [hs]
  · exact State.streamInv_of_rest ⟨hwire, hsink, hcarry, hfinal⟩ rfl hf
  · exact State.streamInv_of_loopHead ⟨hwire, hsink, hcarry, hfinal⟩ rfl hf ho rfl

/-- The Carried Bits have gone out. -/
theorem State.streamInv_clearCarry {s : State} (h : s.streamInv) : s.clearCarry.streamInv := by
  obtain ⟨hwire, htable, hfault, hsink, hblock, hloop, -, -, hemit, -⟩ := h
  exact ⟨hwire, htable, hfault, hsink, hblock, hloop, Nat.one_pos, fun _ => rfl, hemit, fun _ _ => rfl⟩

/-- The next micro-operation after the Carried Bits have gone out. -/
theorem State.streamInv_clearCarry_update {s : State} (h : s.streamInv) (hin : inBlock s.upc = true) :
    (s.clearCarry.goto Upc.s7Update).streamInv := by
  obtain ⟨ho, hfin⟩ := State.streamOpen_of_inBlock h hin
  obtain ⟨hwire, hsink, -, -⟩ := State.streamBase_of_streamInv h
  have hf := State.unfaulted_of_streamInv h (ne_faulted_of_inBlock hin)
  exact State.streamInv_of_block ⟨hwire, hsink, Nat.one_pos, fun _ => rfl⟩ rfl hf ho hfin
    (fun h => absurd h (show Upc.s7Update ≠ Upc.s6EmitCarry by decide)) fun _ _ => rfl

/-- The bits held back keep the Carried Bits' form, and come from a non-final block (R24, R223). -/
theorem State.streamInv_holdCarry {s : State} (h : s.streamInv) (hu : s.upc = Upc.s6EmitCarry) : s.holdCarry.streamInv := by
  have hin := inBlock_of_upc hu rfl
  unfold State.holdCarry
  split
  · exact State.streamInv_enterFault _ h
  · next v _ =>
    obtain ⟨ho, hfin⟩ := State.streamOpen_of_inBlock h hin
    obtain ⟨hwire, hsink, -, -⟩ := State.streamBase_of_streamInv h
    have hf := State.unfaulted_of_streamInv h (ne_faulted_of_inBlock hin)
    have hcarry : (BitVec.ofNat 7 (v % 2 ^ s.cr.bitrem.toNat)).toNat < 2 ^ s.cr.bitrem.toNat := by
      rw [BitVec.toNat_ofNat]
      exact (Nat.mod_le _ _).trans_lt (Nat.mod_lt _ (Nat.two_pow_pos _))
    have hbf := State.nonfinal_of_emitCarry h hu
    exact State.streamInv_of_block ⟨hwire, hsink, hcarry, fun h => absurd (hfin.symm.trans h) (by decide)⟩ rfl hf ho hfin
      (fun h => absurd h (show Upc.s7Update ≠ Upc.s6EmitCarry by decide)) fun _ h => absurd (hbf.symm.trans h) (by decide)

theorem State.streamInv_writeCmd {s : State} (w : Word) (h : s.streamInv) : (s.writeCmd w).streamInv := by
  rcases s.writeCmd_cases w with ⟨hu, hw⟩ | ⟨-, hw⟩ | ⟨-, -, hw⟩ <;> rw [hw]
  · have hne : s.upc ≠ Upc.faulted := by rw [hu]; decide
    exact State.streamInv_goto_rest (s := { s with cmd := w }) (u := Upc.check) h hne rfl (by decide)
  · exact h
  · exact h

theorem hwReset_streamBase (ready : Bool) : (State.hwReset ready).streamBase :=
  ⟨rfl, fun _ => rfl, Nat.one_pos, fun _ => rfl⟩

theorem hwReset_streamInv (ready : Bool) : (State.hwReset ready).streamInv :=
  State.streamInv_of_rest (hwReset_streamBase ready) rfl rfl

theorem State.streamInv_hardwareReset (s : State) (ready : Bool) : (s.hardwareReset ready).streamInv :=
  State.streamInv_of_rest (hwReset_streamBase ready) rfl rfl

theorem State.streamInv_hostTurn {s : State} (h : s.streamInv) : s.hostTurn.streamInv := by
  rcases s.hostTurn_cases with ⟨-, ht⟩ | ⟨w, q, -, ht⟩ | ⟨off, w, q, -, -, ht⟩ | ⟨bytes, q, -, ht⟩ | ⟨src, q, -, ht⟩ |
    ⟨ready, q, -, ht⟩ <;> rw [ht]
  · exact h
  · exact State.streamInv_writeCmd w (s := { s with script := q }) h
  · exact h
  · rcases State.loadIn_cases { s with script := q } bytes with ⟨-, hl⟩ | ⟨-, hl⟩ <;> rw [hl]
    · exact h
    · exact State.streamInv_enterFault _ (s := { s with script := q }) h
  · exact h
  · exact State.streamInv_hardwareReset _ ready

/-! ### Every micro-operation keeps the stream's invariant -/

theorem check_keeps_streamInv {s t : State} (h : s.streamInv) (hu : s.upc = Upc.check) (ht : exec .check s = .next t) :
    t.streamInv := by
  have hne : s.upc ≠ Upc.faulted := by rw [hu]; decide
  have hb := State.streamBase_of_streamInv h
  have hf := State.unfaulted_of_streamInv h hne
  rcases exec_check_cases s with ⟨c, hc⟩ | hc | hc | ⟨-, ho, hfin, hc⟩ | ⟨final, len, ho, hfin, hc⟩ <;>
    obtain rfl := Host.Outcome.next.inj (hc.symm.trans ht)
  · exact State.streamInv_raise c 0 h hne
  · exact State.streamInv_goto_rest h hne rfl (by decide)
  · exact State.streamInv_goto_rest h hne rfl (by decide)
  · exact State.streamInv_of_loopHead (t := s.startReadAll) hb rfl hf ho hfin
  · exact State.streamInv_of_blockStart (t := s.startBlock final len) hb rfl hf ho hfin

theorem xReset_keeps_streamInv {s t : State} (h : s.streamInv) (hu : s.upc = Upc.xReset) (ht : exec .xReset s = .next t) :
    t.streamInv := by
  obtain ⟨hwire, -⟩ := State.streamBase_of_streamInv h
  have hf := State.unfaulted_of_streamInv h (by rw [hu]; decide)
  obtain rfl := Host.Outcome.next.inj ht
  exact State.streamInv_of_rest ⟨hwire, fun _ => rfl, Nat.one_pos, fun _ => rfl⟩ rfl hf

theorem xClose_keeps_streamInv {s t : State} (h : s.streamInv) (hu : s.upc = Upc.xClose) (ht : exec .xClose s = .next t) :
    t.streamInv := by
  have hb := State.streamBase_of_streamInv h
  have hf := State.unfaulted_of_streamInv h (by rw [hu]; decide)
  obtain rfl := Host.Outcome.next.inj ht
  exact State.streamInv_of_rest hb rfl hf

theorem xReadall_keeps_streamInv {s t : State} (h : s.streamInv) (hu : s.upc = Upc.xReadall)
    (ht : exec .xReadall s = .next t) : t.streamInv := by
  have hne : s.upc ≠ Upc.faulted := by rw [hu]; decide
  have hb := State.streamBase_of_streamInv h
  have hf := State.unfaulted_of_streamInv h hne
  obtain ⟨ho, hfinbf⟩ := State.streamOpen_of_loopHead h hu
  have hstart : ∀ held rest final, s.work.bf = false → (s.startSourceBlock held rest final).streamInv :=
    fun held rest final hbf =>
      State.streamInv_of_blockStart (t := s.startSourceBlock held rest final) hb rfl hf ho (hfinbf.trans hbf)
  rcases execXReadall_cases s with ⟨-, hc⟩ | ⟨hbf, -, hc⟩ | ⟨-, -, -, hc⟩ | ⟨hbf, -, -, hc⟩ | ⟨-, -, -, hc⟩ <;>
    obtain rfl := Host.Outcome.next.inj (hc.symm.trans ht)
  · exact State.streamInv_finish s.rtotal h hne
  · exact hstart _ _ _ hbf
  · exact h
  · exact hstart _ _ _ hbf
  · exact State.streamInv_raise .src s.rtotal
      (s := { s with inMem := s.inMem.writeBytes 0 s.src.bytes, src := ⟨[], .failed⟩ }) h hne

theorem s2Stat_keeps_streamInv {s t : State} (h : s.streamInv) (hu : s.upc = Upc.s2Stat) (ht : exec .s2Stat s = .next t) :
    t.streamInv := by
  have hin := inBlock_of_upc hu rfl
  obtain rfl := Host.Outcome.next.inj ht
  refine State.streamInv_submit h hin fun t hinv hupc => ?_
  rw [← hupc] at hin
  split
  · exact State.streamInv_goto_block hinv hin rfl
  · exact State.streamInv_raiseBlock .hw hinv (ne_faulted_of_inBlock hin)

theorem s5Encode_keeps_streamInv {s t : State} (h : s.streamInv) (hu : s.upc = Upc.s5Encode)
    (ht : exec .s5Encode s = .next t) : t.streamInv := by
  have hin := inBlock_of_upc hu rfl
  obtain rfl := Host.Outcome.next.inj ht
  exact State.streamInv_submit h hin fun t hinv hupc => State.streamInv_goto_block hinv (hupc ▸ hin) rfl

theorem s6Interpret_keeps_streamInv {s t : State} (h : s.streamInv) (hu : s.upc = Upc.s6Interpret)
    (ht : exec .s6Interpret s = .next t) : t.streamInv := by
  have hin := inBlock_of_upc hu rfl
  have hpath : ∀ p, State.streamInv { s with work := { s.work with path := p } } := fun p => h
  rcases exec_s6Interpret_cases s with hc | ⟨hbf, hc⟩ | hc | hc <;> obtain rfl := Host.Outcome.next.inj (hc.symm.trans ht)
  · exact State.streamInv_goto_block (hpath .stored) hin rfl
  · obtain ⟨ho, hfin⟩ := State.streamOpen_of_inBlock h hin
    have hb := State.streamBase_of_streamInv h
    have hf := State.unfaulted_of_streamInv h (ne_faulted_of_inBlock hin)
    exact State.streamInv_of_block (t := s.takePath .compressed Upc.s6EmitCarry) hb rfl hf ho hfin (fun _ => hbf)
      (fun h => absurd h (show Upc.s6EmitCarry ≠ Upc.s7Update by decide))
  · exact State.streamInv_goto_block (hpath .compressed) hin rfl
  · exact State.streamInv_goto_block h hin rfl

theorem s6EmitCarry_keeps_streamInv {s t : State} (h : s.streamInv) (hu : s.upc = Upc.s6EmitCarry)
    (ht : exec .s6EmitCarry s = .next t) : t.streamInv := by
  obtain rfl := Host.Outcome.next.inj ht
  split
  · exact State.streamInv_enterFault _ h
  · split
    · exact State.streamInv_enterFault _ h
    · exact State.streamInv_emit h (inBlock_of_upc hu rfl) fun _ _ hinv => State.streamInv_holdCarry hinv hu

theorem s6EmitAll_keeps_streamInv {s t : State} (h : s.streamInv) (hu : s.upc = Upc.s6EmitAll)
    (ht : exec .s6EmitAll s = .next t) : t.streamInv := by
  have hin := inBlock_of_upc hu rfl
  obtain rfl := Host.Outcome.next.inj ht
  split
  · exact State.streamInv_enterFault _ h
  · exact State.streamInv_emit h hin fun _ _ hinv => State.streamInv_clearCarry_update hinv hin

theorem s6Stored_keeps_streamInv {s t : State} (h : s.streamInv) (hu : s.upc = Upc.s6Stored)
    (ht : exec .s6Stored s = .next t) : t.streamInv := by
  have hin := inBlock_of_upc hu rfl
  obtain rfl := Host.Outcome.next.inj ht
  split
  · exact State.streamInv_enterFault _ h
  · exact State.streamInv_emit h hin fun _ _ hinv => State.streamInv_clearCarry_update hinv hin

theorem s7Update_keeps_streamInv {s t : State} (h : s.streamInv) (hu : s.upc = Upc.s7Update)
    (ht : exec .s7Update s = .next t) : t.streamInv := by
  have hin := inBlock_of_upc hu rfl
  have hfinal := State.final_carry_of_update h hu
  have hnew : ∀ c k, State.streamInv { s with crc := c, tgl := k } := fun _ _ => h
  obtain rfl := Host.Outcome.next.inj ht
  split
  · exact State.streamInv_endBlock _ (hnew _ _) hin hfinal
  · split
    · exact State.streamInv_enterFault _ h
    · exact State.streamInv_endBlock _ (hnew _ _) hin hfinal

theorem zStored_keeps_streamInv {s t : State} (h : s.streamInv) (hu : s.upc = Upc.zStored)
    (ht : exec .zStored s = .next t) : t.streamInv := by
  have hin := inBlock_of_upc hu rfl
  obtain rfl := Host.Outcome.next.inj ht
  refine State.streamInv_emit h hin fun b q hinv => ?_
  have hclear := State.streamInv_clearCarry hinv
  exact State.streamInv_endBlock 0 hclear hin fun _ => rfl

/-- Every micro-operation keeps the stream's invariant in a state whose UPC names it. -/
theorem microOp_keeps_streamInv {i : Instr} {s t : State} (he : encode i = upcWord s.upc) (h : s.streamInv)
    (ht : exec i s = .next t) : t.streamInv := by
  have hquiet : ∀ {u v}, Quiet i v → encode i = upcWord u → inBlock u = true → quietPlace v = true → t.streamInv :=
    fun hq hi hin hv => hq.keeps_streamInv h (inBlock_of_upc (upcWord_injective (he.symm.trans hi)) hin) hv ht
  cases i with
  | idle => exact Host.Outcome.next.inj ht ▸ State.streamInv_hostTurn h
  | faulted => exact Host.Outcome.next.inj ht ▸ State.streamInv_hostTurn h
  | check => exact check_keeps_streamInv h (upcWord_injective he).symm ht
  | xReset => exact xReset_keeps_streamInv h (upcWord_injective he).symm ht
  | xClose => exact xClose_keeps_streamInv h (upcWord_injective he).symm ht
  | xReadall => exact xReadall_keeps_streamInv h (upcWord_injective he).symm ht
  | s1Select => exact hquiet quiet_s1Select rfl rfl rfl
  | s2Stat => exact s2Stat_keeps_streamInv h (upcWord_injective he).symm ht
  | s3Eob => exact hquiet quiet_s3Eob rfl rfl rfl
  | s3HgenLl => exact hquiet quiet_s3HgenLl rfl rfl rfl
  | s3HgenD => exact hquiet quiet_s3HgenD rfl rfl rfl
  | s3CanonLl => exact hquiet quiet_s3CanonLl rfl rfl rfl
  | s3CanonD => exact hquiet quiet_s3CanonD rfl rfl rfl
  | s4Tokenize => exact hquiet quiet_s4Tokenize rfl rfl rfl
  | s4HgenCl => exact hquiet quiet_s4HgenCl rfl rfl rfl
  | s4CanonCl => exact hquiet quiet_s4CanonCl rfl rfl rfl
  | s4Prefix => exact hquiet quiet_s4Prefix rfl rfl rfl
  | s4Blkhdr => exact hquiet quiet_s4Blkhdr rfl rfl rfl
  | s4Counts => exact hquiet quiet_s4Counts rfl rfl rfl
  | s4Cllens => exact hquiet quiet_s4Cllens rfl rfl rfl
  | s4Seq => exact hquiet quiet_s4Seq rfl rfl rfl
  | s4Flush => exact hquiet quiet_s4Flush rfl rfl rfl
  | s5Encode => exact s5Encode_keeps_streamInv h (upcWord_injective he).symm ht
  | s6Interpret => exact s6Interpret_keeps_streamInv h (upcWord_injective he).symm ht
  | s6EmitCarry => exact s6EmitCarry_keeps_streamInv h (upcWord_injective he).symm ht
  | s6EmitAll => exact s6EmitAll_keeps_streamInv h (upcWord_injective he).symm ht
  | s6Stored => exact s6Stored_keeps_streamInv h (upcWord_injective he).symm ht
  | s6Fatal =>
    have hu : Upc.s6Fatal = s.upc := upcWord_injective he
    exact Host.Outcome.next.inj ht ▸ State.streamInv_raiseBlock .hw h (hu ▸ by decide)
  | s7Update => exact s7Update_keeps_streamInv h (upcWord_injective he).symm ht
  | zStored => exact zStored_keeps_streamInv h (upcWord_injective he).symm ht
  | reset | writeBlock _ _ | close | readAll | hdrDynamic _ | hdrStored _ | clLen _ | clRep16 _ | clRep17 _ | clRep18 _
  | packedEntry _ _ => cases (congrArg Encoded.fmt he : _ = Format.upc)

/-- Settles O53: a step is a command's write at IDLE or the micro-operation that UPC names, and each keeps the invariant. -/
theorem stepKeepsStreamInv : Obligations.StepKeepsStreamInv := by
  intro s t h ht
  obtain ⟨hwire, -⟩ := State.streamBase_of_streamInv h
  rcases step_cases s with ⟨w, i, hw, -⟩ | ⟨w, hw, -⟩ | ⟨i, s', -, hc, hs⟩ | ⟨i, -, -, hd, hs⟩ | ⟨e, -, -, -, hs⟩
  · simp [hwire] at hw
  · simp [hwire] at hw
  · obtain ⟨w, q, -, -, hd, rfl⟩ := fetchCommand_some s i s' hc
    have hexec := exec_of_decodeCommand hd { s with script := q }
    obtain rfl := Host.Outcome.next.inj ((hs.trans hexec).symm.trans ht)
    exact State.streamInv_writeCmd _ (s := { s with script := q }) h
  · exact microOp_keeps_streamInv (encode_of_decodeUpc hd) h (hs.symm.trans ht)
  · cases hs.symm.trans ht

/-! ### The invariants after hardware reset -/

theorem hwReset_memoryInv (ready : Bool) : (State.hwReset ready).memoryInv := ⟨rfl, rfl, rfl, rfl⟩

theorem hwReset_accumulatorInv (ready : Bool) : (State.hwReset ready).accumulatorInv :=
  ⟨rfl, by simp [State.accumulatorFits, State.hwReset], fun _ _ => ⟨rfl, rfl, rfl, rfl⟩⟩

/-- Settles O54. -/
theorem resetMeetsInvariants : Obligations.ResetMeetsInvariants :=
  ⟨⟨hwReset_memoryInv true, hwReset_accumulatorInv true, hwReset_streamInv true⟩,
    fun ready => ⟨hwReset_memoryInv ready, hwReset_accumulatorInv ready, hwReset_streamInv ready⟩⟩

/-! ### How many micro-operations a command takes (R229, R392) -/

/-- The command in hand ends in at most `k` steps. -/
def EndsIn (k : Nat) (s : State) : Prop := ∃ j, j ≤ k ∧ RunsTo j s Ended

theorem runsTo_succ {k : Nat} {s t : State} {p : State → Prop} (hs : step s = .next t) (h : RunsTo k t p) :
    RunsTo (k + 1) s p := by
  obtain ⟨u, hrun, hp⟩ := h
  have hcore : core.step s = .next t := hs
  exact ⟨u, by simp only [Host.Core.run, hcore, hrun], hp⟩

theorem EndsIn.of_ended {k : Nat} {s : State} (h : Ended s) : EndsIn k s := ⟨0, Nat.zero_le k, s, rfl, h⟩

theorem EndsIn.of_step {k : Nat} {s t : State} (hs : step s = .next t) (h : EndsIn k t) : EndsIn (k + 1) s := by
  obtain ⟨j, hj, hrun⟩ := h
  exact ⟨j + 1, Nat.succ_le_succ hj, runsTo_succ hs hrun⟩

theorem EndsIn.mono {k m : Nat} {s : State} (h : EndsIn k s) (hkm : k ≤ m) : EndsIn m s := by
  obtain ⟨j, hj, hrun⟩ := h
  exact ⟨j, hj.trans hkm, hrun⟩

theorem endsIn_enterFault (k : Nat) (s : State) (r : FaultReason) : EndsIn k (s.enterFault r) := .of_ended (.inr rfl)

theorem endsIn_raise (k : Nat) (s : State) (c : ErrClass) (n : BitVec 64) : EndsIn k (s.raise c n) := .of_ended (.inl rfl)

theorem endsIn_raiseBlock (k : Nat) (s : State) (c : ErrClass) : EndsIn k (s.raiseBlock c) := .of_ended (.inl rfl)

/-- A command other than READ_ALL is in hand, with no wire item handed over and answers for at least `n` more jobs (AS6). -/
def State.Answered (n : Nat) (s : State) : Prop :=
  s.wire = none ∧ cmdOp s.cmd ≠ 4#4 ∧ n ≤ s.xferQ.length ∧ n ≤ s.jobQ.length

theorem State.answered_congr {n : Nat} {s t : State} (h : t.course = s.course) : t.Answered n ↔ s.Answered n := by
  simp only [State.course, Course.mk.injEq] at h
  simp [State.Answered, h]

/-- From UPC = `u`, a command other than READ_ALL with `n` more answers ends in at most `k` steps. -/
def EndsWithin (k n : Nat) (u : BitVec 8) : Prop := ∀ s : State, s.Answered n → s.upc = u → EndsIn k s

theorem EndsWithin.mono {k m n : Nat} {u : BitVec 8} (h : EndsWithin k n u) (hkm : k ≤ m) : EndsWithin m n u :=
  fun s ha hu => (h s ha hu).mono hkm

/-- One step of a command outside IDLE is its micro-operation. -/
theorem endsWithin_of_exec {k n : Nat} {u : BitVec 8} {i : Instr} (hd : decodeUpc u = .ok i) (hu : u ≠ Upc.idle)
    (h : ∀ s : State, s.Answered n → s.upc = u → ∃ t, exec i s = .next t ∧ EndsIn k t) : EndsWithin (k + 1) n u := by
  rintro s ha rfl
  obtain ⟨t, ht, hend⟩ := h s ha rfl
  obtain ⟨hwire, -⟩ := ha
  exact .of_step ((step_eq_exec hwire hu hd).trans ht) hend

theorem State.Moves.endsIn {k n : Nat} {u : BitVec 8} {s t : State} (hm : s.Moves u t) (ha : s.Answered n)
    (h : EndsWithin k n u) : EndsIn k t := by
  obtain ⟨hc, ⟨hu, -⟩ | ⟨hu, -⟩⟩ := hm
  · exact h t ((State.answered_congr hc).mpr ha) hu
  · exact .of_ended (.inr hu)

theorem Quiet.endsWithin {k n : Nat} {u v : BitVec 8} {i : Instr} (hq : Quiet i v) (hd : decodeUpc u = .ok i)
    (hu : u ≠ Upc.idle) (h : EndsWithin k n v) : EndsWithin (k + 1) n u :=
  endsWithin_of_exec hd hu fun s ha _ => (hq s).imp fun _ ⟨ht, hm⟩ => ⟨ht, hm.endsIn ha h⟩

/-- A job with an answer returns, or is not submitted: the DFE does not wait. -/
theorem State.endsIn_submit {k n : Nat} {s : State} {j : Job} {fits : Nat → Bool} {done : State → State}
    (ha : s.Answered (n + 1)) (hdone : ∀ t : State, t.Answered n → EndsIn k (done t)) : EndsIn k (s.submit j fits done) := by
  obtain ⟨hwire, hop, hx, hj⟩ := ha
  rcases s.submit_cases j fits done with ⟨-, hq⟩ | ⟨m, q, -, -, hs⟩ | ⟨m, q, r, q', hxq, hjq, -, hs⟩
  · rcases hq with hq | hq
    · simp [hq] at hx
    · simp [hq] at hj
  · exact hs ▸ endsIn_raiseBlock k _ .size
  · rw [hxq] at hx
    rw [hjq] at hj
    have hq : State.Answered n { s with xferQ := q, maxxfer := BitVec.ofNat 32 m, jobQ := q' } :=
      ⟨hwire, hop, Nat.le_of_succ_le_succ hx, Nat.le_of_succ_le_succ hj⟩
    exact hs ▸ hdone _ ((State.answered_congr (State.course_afterJob _ j r)).mpr hq)

theorem State.endsIn_emit {k n : Nat} {s : State} {bytes : List Byte} {next : State → State} (ha : s.Answered n)
    (hnext : ∀ t : State, t.Answered n → EndsIn k (next t)) : EndsIn k (s.emit bytes next) := by
  rcases s.emit_cases bytes next with ⟨q, hs, -⟩ | ⟨j, q, -, hs⟩ <;> rw [hs]
  · exact hnext { s with sink := s.sink ++ bytes, sinkQ := q } ha
  · exact endsIn_raiseBlock k _ .sink

theorem State.endsIn_endBlock {n : Nat} {s : State} (k : Nat) (c : BitVec 64) (ha : s.Answered n) : EndsIn k (s.endBlock c) := by
  obtain ⟨-, hop, -⟩ := ha
  rcases s.endBlock_cases c with ⟨-, hs⟩ | ⟨hread, -⟩
  · exact hs ▸ .of_ended (.inl rfl)
  · exact absurd (of_decide_eq_true hread) hop

theorem endsWithin_s7Update : EndsWithin 1 0 Upc.s7Update :=
  endsWithin_of_exec rfl (by decide) fun s ha _ => ⟨_, rfl, by
    have hnew : ∀ c k, State.Answered 0 { s with crc := c, tgl := k } := fun _ _ => ha
    split
    · exact State.endsIn_endBlock 0 _ (hnew _ _)
    · split
      · exact endsIn_enterFault 0 s _
      · exact State.endsIn_endBlock 0 _ (hnew _ _)⟩

theorem endsWithin_s6EmitCarry : EndsWithin 2 0 Upc.s6EmitCarry :=
  endsWithin_of_exec rfl (by decide) fun s ha _ => ⟨_, rfl, by
    split
    · exact endsIn_enterFault 1 s _
    · split
      · exact endsIn_enterFault 1 s _
      · refine State.endsIn_emit ha fun t hans => ?_
        unfold State.holdCarry
        split
        · exact endsIn_enterFault 1 t _
        · exact endsWithin_s7Update _ hans rfl⟩

theorem endsWithin_s6EmitAll : EndsWithin 2 0 Upc.s6EmitAll :=
  endsWithin_of_exec rfl (by decide) fun s ha _ => ⟨_, rfl, by
    split
    · exact endsIn_enterFault 1 s _
    · exact State.endsIn_emit ha fun t hans => endsWithin_s7Update _ hans rfl⟩

theorem endsWithin_s6Stored : EndsWithin 2 0 Upc.s6Stored :=
  endsWithin_of_exec rfl (by decide) fun s ha _ => ⟨_, rfl, by
    split
    · exact endsIn_enterFault 1 s _
    · exact State.endsIn_emit ha fun t hans => endsWithin_s7Update _ hans rfl⟩

theorem endsWithin_s6Fatal : EndsWithin 2 0 Upc.s6Fatal :=
  endsWithin_of_exec rfl (by decide) fun s _ _ => ⟨_, rfl, endsIn_raiseBlock 1 s .hw⟩

theorem endsWithin_s6Interpret : EndsWithin 3 0 Upc.s6Interpret :=
  endsWithin_of_exec rfl (by decide) fun s ha _ => by
    rcases exec_s6Interpret_cases s with hc | ⟨-, hc⟩ | hc | hc
    · exact ⟨_, hc, endsWithin_s6Stored _ ha rfl⟩
    · exact ⟨_, hc, endsWithin_s6EmitCarry _ ha rfl⟩
    · exact ⟨_, hc, endsWithin_s6EmitAll _ ha rfl⟩
    · exact ⟨_, hc, endsWithin_s6Fatal _ ha rfl⟩

theorem endsWithin_s5Encode : EndsWithin 4 1 Upc.s5Encode :=
  endsWithin_of_exec rfl (by decide) fun _ ha _ =>
    ⟨_, rfl, State.endsIn_submit ha fun _ hans => endsWithin_s6Interpret _ hans rfl⟩

/-- Step 4: the nine micro-operations of the header, then the encode job. -/
theorem endsWithin_s4Tokenize : EndsWithin 13 1 Upc.s4Tokenize :=
  have hflush := quiet_s4Flush.endsWithin rfl (by decide) endsWithin_s5Encode
  have hseq := quiet_s4Seq.endsWithin rfl (by decide) hflush
  have hcllens := quiet_s4Cllens.endsWithin rfl (by decide) hseq
  have hcounts := quiet_s4Counts.endsWithin rfl (by decide) hcllens
  have hblkhdr := quiet_s4Blkhdr.endsWithin rfl (by decide) hcounts
  have hcarried := quiet_s4Prefix.endsWithin rfl (by decide) hblkhdr
  have hcanon := quiet_s4CanonCl.endsWithin rfl (by decide) hcarried
  have hgen := quiet_s4HgenCl.endsWithin rfl (by decide) hcanon
  quiet_s4Tokenize.endsWithin rfl (by decide) hgen

/-- Step 3: the five micro-operations of the tables, then step 4. -/
theorem endsWithin_s3Eob : EndsWithin 18 1 Upc.s3Eob :=
  have hcanonD := quiet_s3CanonD.endsWithin rfl (by decide) endsWithin_s4Tokenize
  have hcanonLl := quiet_s3CanonLl.endsWithin rfl (by decide) hcanonD
  have hgenD := quiet_s3HgenD.endsWithin rfl (by decide) hcanonLl
  have hgenLl := quiet_s3HgenLl.endsWithin rfl (by decide) hgenD
  quiet_s3Eob.endsWithin rfl (by decide) hgenLl

theorem endsWithin_s2Stat : EndsWithin 19 2 Upc.s2Stat :=
  endsWithin_of_exec rfl (by decide) fun _ ha _ => ⟨_, rfl, State.endsIn_submit ha fun t hans => by
    split
    · exact endsWithin_s3Eob _ hans rfl
    · exact endsIn_raiseBlock 18 t .hw⟩

theorem endsWithin_s1Select : EndsWithin 20 2 Upc.s1Select :=
  quiet_s1Select.endsWithin rfl (by decide) endsWithin_s2Stat

theorem endsWithin_zStored (n : Nat) : EndsWithin 1 n Upc.zStored :=
  endsWithin_of_exec rfl (by decide) fun _ ha _ =>
    ⟨_, rfl, State.endsIn_emit ha fun t hans => State.endsIn_endBlock (s := t.clearCarry) 0 _ hans⟩

theorem endsWithin_xReset (n : Nat) : EndsWithin 1 n Upc.xReset :=
  endsWithin_of_exec rfl (by decide) fun _ _ _ => ⟨_, rfl, .of_ended (.inl rfl)⟩

theorem endsWithin_xClose (n : Nat) : EndsWithin 1 n Upc.xClose :=
  endsWithin_of_exec rfl (by decide) fun _ _ _ => ⟨_, rfl, .of_ended (.inl rfl)⟩

/-- A command other than READ_ALL takes at most 21 micro-operations, CHECK among them. -/
theorem endsWithin_check : EndsWithin 21 2 Upc.check :=
  endsWithin_of_exec rfl (by decide) fun s ha _ => by
    have ⟨_, hop, _⟩ := ha
    have hreset : EndsWithin 20 2 Upc.xReset := (endsWithin_xReset 2).mono (by decide)
    have hclose : EndsWithin 20 2 Upc.xClose := (endsWithin_xClose 2).mono (by decide)
    have hzero : EndsWithin 20 2 Upc.zStored := (endsWithin_zStored 2).mono (by decide)
    rcases exec_check_cases s with ⟨c, hc⟩ | hc | hc | ⟨hread, -⟩ | ⟨final, len, -, -, hc⟩
    · exact ⟨_, hc, endsIn_raise 20 s c 0⟩
    · exact ⟨_, hc, hreset _ ha rfl⟩
    · exact ⟨_, hc, hclose _ ha rfl⟩
    · exact absurd hread hop
    · refine ⟨_, hc, ?_⟩
      by_cases hz : len = 0#16
      · exact hzero (s.startBlock final len) ha (if_pos hz)
      · exact endsWithin_s1Select (s.startBlock final len) ha (if_neg hz)

/-- Settles O55: 21 micro-operations are enough. -/
theorem commandEndsWithin25 : Obligations.CommandEndsWithin25 := fun s hwire hu hop hx hj =>
  (endsWithin_check s ⟨hwire, hop, hx, hj⟩ hu).mono (by decide)

end Sys2Proof.Machine

/-! Proofs of the statements about the spaces (spec/20_memory.md). -/

namespace Sys2Proof.Machine

/-! ### What a step keeps of the spaces -/

/-- The spaces that a step can write to: IN, OUT, AECS[0], AECS[1] and the sink. -/
structure Spaces where
  inMem : Memory
  out : Memory
  aecs0 : Aecs
  aecs1 : Aecs
  sink : List Byte

/-- The spaces of a state. -/
def State.spaces (s : State) : Spaces :=
  { inMem := s.inMem, out := s.out, aecs0 := s.aecs0, aecs1 := s.aecs1, sink := s.sink }

/-- From `s` to `t` the memories keep their canonical form, the sink is appended to at most, and AECS[k] is not written. For one k
this composes, so that a step is followed write by write. -/
structure State.SpacesKept (k : Bool) (s t : State) : Prop where
  memory : s.memoryInv → t.memoryInv
  sink : s.sink <+: t.sink
  aecs_eq : t.aecs k = s.aecs k

theorem State.memoryInv_iff (s : State) :
    s.memoryInv ↔ s.inMem.wf = true ∧ s.out.wf = true ∧ ∀ k, (s.aecs k).canonical = true := by
  simp [State.memoryInv, State.aecs]

theorem Aecs.canonical_iff (a : Aecs) :
    a.canonical = true ↔ a.histLL.wf = true ∧ a.histD.wf = true ∧ a.hdr.wf = true := by
  simp [Aecs.canonical, and_assoc]

theorem State.SpacesKept.trans {k : Bool} {s t u : State} (h : s.SpacesKept k t) (h' : t.SpacesKept k u) :
    s.SpacesKept k u :=
  ⟨fun hs => h'.memory (h.memory hs), h.sink.trans h'.sink, h'.aecs_eq.trans h.aecs_eq⟩

/-- Registers alone are written. -/
theorem State.SpacesKept.of_spaces_eq {k : Bool} {s t : State} (h : t.spaces = s.spaces) : s.SpacesKept k t := by
  simp only [State.spaces, Spaces.mk.injEq] at h
  obtain ⟨hin, hout, h0, h1, hsink⟩ := h
  exact ⟨by simp [State.memoryInv, hin, hout, h0, h1], hsink ▸ List.prefix_rfl, by simp [State.aecs, h0, h1]⟩

/-- Bytes are written to IN. -/
theorem State.SpacesKept.of_inMem_written {k : Bool} {s t : State} (a : Nat) (bs : List Byte)
    (h : t.spaces = { s.spaces with inMem := s.inMem.writeBytes a bs }) : s.SpacesKept k t := by
  have hin : s.SpacesKept k { s with inMem := s.inMem.writeBytes a bs } :=
    ⟨fun ⟨hi, hrest⟩ => ⟨s.inMem.wf_writeBytes a bs hi, hrest⟩, List.prefix_rfl, rfl⟩
  exact hin.trans (.of_spaces_eq h)

theorem State.spacesKept_appended (k : Bool) (s : State) (bytes : List Byte) (q : List SinkAnswer) :
    s.SpacesKept k { s with sink := s.sink ++ bytes, sinkQ := q } :=
  ⟨id, List.prefix_append _ _, rfl⟩

theorem State.spacesKept_setAecs (s : State) (k : Bool) {a : Aecs}
    (ha : (s.aecs k).canonical = true → a.canonical = true) : s.SpacesKept (!k) (s.setAecs k a) where
  memory h := by
    obtain ⟨hin, hout, haecs⟩ := (s.memoryInv_iff).mp h
    refine (State.memoryInv_iff _).mpr ⟨by simpa using hin, by simpa using hout, fun j => ?_⟩
    by_cases hj : j = k
    · rw [hj, State.aecs_setAecs_same]
      exact ha (haecs k)
    · rw [Bool.eq_not_of_ne hj, State.aecs_setAecs_other]
      exact haecs (!k)
  sink := by simp
  aecs_eq := s.aecs_setAecs_other k a

theorem State.spacesKept_setCur (s : State) {a : Aecs} (ha : s.cur.canonical = true → a.canonical = true) :
    s.SpacesKept (!s.tgl) (s.setCur a) :=
  s.spacesKept_setAecs s.tgl ha

/-! ### The accumulator's writes to HDR -/

/-- The accumulator as a write leaves it, with or without a fault. -/
def accumulatorLeft : WriteResult → BitWriter
  | .ok b => b
  | .error e => e.2

theorem BitWriter.wf_hdr_write {b : BitWriter} (f : Field) (h : b.hdr.wf = true) :
    (accumulatorLeft (b.write f)).hdr.wf = true := by
  rcases b.write_cases f with ⟨-, hw⟩ | ⟨-, -, hw⟩ | ⟨-, -, -, hw⟩ | ⟨-, -, -, hw⟩ <;> rw [hw]
  · exact h
  · exact h
  · exact b.hdr.wf_writeBytes _ _ h
  · exact h

theorem BitWriter.wf_hdr_writeAll {b : BitWriter} (fs : List Field) (h : b.hdr.wf = true) :
    (accumulatorLeft (b.writeAll fs)).hdr.wf = true := by
  induction fs generalizing b with
  | nil => exact h
  | cons f fs ih =>
    have hf := BitWriter.wf_hdr_write f h
    rcases b.writeAll_cases f fs with ⟨b', hb, hall⟩ | ⟨e, he, hall⟩ <;> rw [hall]
    · rw [hb] at hf
      exact ih hf
    · rwa [he] at hf

theorem BitWriter.wf_hdr_flush {b b' : BitWriter} {n : BitVec 12} (hf : b.flush = .ok (b', n)) (h : b.hdr.wf = true) :
    b'.hdr.wf = true := by
  rcases b.flush_cases with ⟨-, hb⟩ | ⟨-, hb⟩ <;> cases hb.symm.trans hf
  exact b.hdr.wf_writeBytes _ _ h

theorem State.spacesKept_setBitWriter (s : State) {b : BitWriter} (hb : s.cur.hdr.wf = true → b.hdr.wf = true) :
    s.SpacesKept (!s.tgl) (s.setBitWriter b) := by
  have hcur : s.SpacesKept (!s.tgl) (s.setCur { s.cur with hdr := b.hdr }) := s.spacesKept_setCur fun h => by
    obtain ⟨hll, hd, hhdr⟩ := s.cur.canonical_iff.mp h
    exact (Aecs.canonical_iff _).mpr ⟨hll, hd, hb hhdr⟩
  exact hcur.trans (.of_spaces_eq rfl)

theorem State.spacesKept_writeFields (s : State) (fs : List Field) (u : BitVec 8) :
    s.SpacesKept (!s.tgl) (s.writeFields fs u) := by
  have hleft : s.SpacesKept (!s.tgl) (s.setBitWriter (accumulatorLeft (s.bitWriter.writeAll fs))) :=
    s.spacesKept_setBitWriter fun h => BitWriter.wf_hdr_writeAll fs h
  rcases s.writeFields_cases fs u with ⟨b, hall, h⟩ | ⟨r, b, hall, h⟩ <;> rw [h] <;> rw [hall] at hleft <;>
    exact hleft.trans (.of_spaces_eq rfl)

/-! ### The counters, the sink, the jobs and the host -/

theorem State.spacesKept_setHistLL (s : State) {m : Memory} (hm : s.cur.histLL.wf = true → m.wf = true) :
    s.SpacesKept (!s.tgl) (s.setCur { s.cur with histLL := m }) :=
  s.spacesKept_setCur fun h => by
    obtain ⟨hll, hd, hhdr⟩ := s.cur.canonical_iff.mp h
    exact (Aecs.canonical_iff _).mpr ⟨hm hll, hd, hhdr⟩

theorem State.spacesKept_setHistD (s : State) {m : Memory} (hm : s.cur.histD.wf = true → m.wf = true) :
    s.SpacesKept (!s.tgl) (s.setCur { s.cur with histD := m }) :=
  s.spacesKept_setCur fun h => by
    obtain ⟨hll, hd, hhdr⟩ := s.cur.canonical_iff.mp h
    exact (Aecs.canonical_iff _).mpr ⟨hll, hm hd, hhdr⟩

theorem State.spacesKept_emit {k : Bool} (s : State) (bytes : List Byte) {next : State → State}
    (hnext : ∀ t : State, t.SpacesKept k (next t)) : s.SpacesKept k (s.emit bytes next) := by
  rcases s.emit_cases bytes next with ⟨q, h, -⟩ | ⟨n, q, -, h⟩ <;> rw [h]
  · exact (s.spacesKept_appended k bytes q).trans (hnext _)
  · exact (s.spacesKept_appended k (bytes.take n) q).trans (.of_spaces_eq rfl)

theorem State.spacesKept_endBlock (k : Bool) (s : State) (n : BitVec 64) : s.SpacesKept k (s.endBlock n) := by
  rcases s.endBlock_cases n with ⟨-, h⟩ | ⟨-, h⟩ <;> rw [h] <;> exact .of_spaces_eq rfl

theorem State.spacesKept_holdCarry (k : Bool) (s : State) : s.SpacesKept k s.holdCarry := by
  unfold State.holdCarry
  split <;> exact .of_spaces_eq rfl

theorem wf_jobTable {m : Memory} (n : Nat) (l : Option (List (BitVec 32))) (h : m.wf = true) :
    (jobTable m n l).wf = true := by
  cases l with
  | none => exact h
  | some l => exact m.wf_setEntries 0 _ h

theorem Aecs.canonical_afterJob {a : Aecs} (r : JobAnswer) (h : a.canonical = true) : (a.afterJob r).canonical = true := by
  obtain ⟨hll, hd, hhdr⟩ := a.canonical_iff.mp h
  exact (Aecs.canonical_iff _).mpr ⟨wf_jobTable _ _ hll, wf_jobTable _ _ hd, a.hdr.wf_writeBytes _ _ hhdr⟩

theorem wf_jobOut {out : Memory} (j : Job) (r : JobAnswer) (h : out.wf = true) : (jobOut out j r).wf = true := by
  unfold jobOut
  split
  · exact h
  · exact out.wf_writeBytes _ _ h

/-- A job writes its own AECS and OUT alone (AS5 of R270, log 7). -/
theorem State.spacesKept_afterJob (s : State) (j : Job) (r : JobAnswer) : s.SpacesKept (!j.aecs) (s.afterJob j r) := by
  have hwritten := s.spacesKept_setAecs j.aecs (Aecs.canonical_afterJob (r.written j.kind))
  refine ⟨fun h => ?_, hwritten.sink, s.afterJob_other_aecs j r⟩
  obtain ⟨hin, -, haecs⟩ := hwritten.memory h
  obtain ⟨-, hout, -⟩ := h
  exact ⟨hin, wf_jobOut j r hout, haecs⟩

theorem State.spacesKept_submit (s : State) (j : Job) (fits : Nat → Bool) {done : State → State}
    (hdone : ∀ t : State, t.SpacesKept (!j.aecs) (done t)) : s.SpacesKept (!j.aecs) (s.submit j fits done) := by
  rcases s.submit_cases j fits done with ⟨h, -⟩ | ⟨m, q, -, -, h⟩ | ⟨m, q, r, q', -, -, -, h⟩ <;> rw [h]
  · exact .of_spaces_eq rfl
  · exact .of_spaces_eq rfl
  · have hasked : s.SpacesKept (!j.aecs) { s with xferQ := q, maxxfer := BitVec.ofNat 32 m, jobQ := q' } := .of_spaces_eq rfl
    exact (hasked.trans (State.spacesKept_afterJob _ j r)).trans (hdone _)

theorem State.spacesKept_writeCmd (k : Bool) (s : State) (w : Word) : s.SpacesKept k (s.writeCmd w) := by
  rcases s.writeCmd_cases w with ⟨-, h⟩ | ⟨-, h⟩ | ⟨-, -, h⟩ <;> rw [h] <;> exact .of_spaces_eq rfl

/-- What the host's turn can do to the spaces: write a Block to IN or nothing, if it is not hardware reset. -/
theorem State.hostTurn_spaces_cases (k : Bool) (s : State) :
    s.SpacesKept k s.hostTurn ∨
      ∃ ready q, s.script = .hardwareReset ready :: q ∧ s.hostTurn = { s with script := q }.hardwareReset ready := by
  have hscript : ∀ q, s.SpacesKept k { s with script := q } := fun q => .of_spaces_eq rfl
  rcases s.hostTurn_cases with ⟨-, h⟩ | ⟨w, q, -, h⟩ | ⟨off, w, q, -, -, h⟩ | ⟨bytes, q, -, h⟩ | ⟨src, q, -, h⟩ | hreset
  · exact .inl (h.symm ▸ .of_spaces_eq rfl)
  · exact .inl (h ▸ (hscript q).trans (State.spacesKept_writeCmd k _ w))
  · exact .inl (h ▸ hscript q)
  · refine .inl (h ▸ (hscript q).trans ?_)
    rcases State.loadIn_cases { s with script := q } bytes with ⟨-, hl⟩ | ⟨-, hl⟩ <;> rw [hl]
    · exact .of_inMem_written 0 bytes rfl
    · exact .of_spaces_eq rfl
  · exact .inl (h ▸ .of_spaces_eq rfl)
  · exact .inr hreset

/-! ### What an instruction keeps of the spaces -/

/-- Whatever the state, the instruction keeps the memories canonical, appends to the sink at most, and leaves AECS[1 - TGL] alone. -/
def Confined (i : Instr) : Prop := ∀ s, ∃ t, exec i s = .next t ∧ s.SpacesKept (!s.tgl) t

theorem confined_check : Confined .check := by
  intro s
  rcases exec_check_cases s with ⟨c, h⟩ | h | h | ⟨-, -, -, h⟩ | ⟨final, len, -, -, h⟩ <;>
    exact ⟨_, h, .of_spaces_eq rfl⟩

theorem confined_xReadall : Confined .xReadall := by
  intro s
  rcases execXReadall_cases s with ⟨-, h⟩ | ⟨-, -, h⟩ | ⟨-, -, -, h⟩ | ⟨-, -, -, h⟩ | ⟨-, -, -, h⟩
  · exact ⟨_, h, .of_spaces_eq rfl⟩
  · exact ⟨_, h, .of_inMem_written 0 (s.src.bytes.take blockMax) rfl⟩
  · exact ⟨_, h, .of_spaces_eq rfl⟩
  · exact ⟨_, h, .of_inMem_written 0 s.src.bytes rfl⟩
  · exact ⟨_, h, .of_inMem_written 0 s.src.bytes rfl⟩

theorem confined_s1Select : Confined .s1Select := fun s =>
  ⟨_, rfl, (s.spacesKept_setCur (a := { s.cur with scratch := s.par.scratchInit }) id).trans (.of_spaces_eq rfl)⟩

theorem confined_s2Stat : Confined .s2Stat := fun s =>
  ⟨_, rfl, s.spacesKept_submit s.statJob _ fun t => by split <;> exact .of_spaces_eq rfl⟩

theorem confined_s3Eob : Confined .s3Eob := by
  refine fun s => ⟨_, rfl, ?_⟩
  split
  · exact (s.spacesKept_setHistLL fun h => Memory.wf_setEntry _ 256 1 h).trans (.of_spaces_eq rfl)
  · exact .of_spaces_eq rfl

theorem confined_s3HgenLl : Confined .s3HgenLl := fun s => ⟨_, rfl, by split <;> exact .of_spaces_eq rfl⟩

theorem confined_s3HgenD : Confined .s3HgenD := fun s => ⟨_, rfl, by split <;> exact .of_spaces_eq rfl⟩

theorem confined_s3CanonLl : Confined .s3CanonLl := by
  refine fun s => ⟨_, rfl, ?_⟩
  split
  · exact .of_spaces_eq rfl
  · dsimp only
    split
    · exact .of_spaces_eq rfl
    · exact (s.spacesKept_setHistLL fun h => Memory.wf_setEntries _ 0 _ h).trans (.of_spaces_eq rfl)

theorem confined_s3CanonD : Confined .s3CanonD := by
  refine fun s => ⟨_, rfl, ?_⟩
  dsimp only
  split
  · exact .of_spaces_eq rfl
  · exact (s.spacesKept_setHistD fun h => Memory.wf_setEntries _ 0 _ h).trans (.of_spaces_eq rfl)

theorem confined_s4HgenCl : Confined .s4HgenCl := fun s => ⟨_, rfl, by split <;> exact .of_spaces_eq rfl⟩

theorem confined_s4CanonCl : Confined .s4CanonCl := fun s => ⟨_, rfl, by split <;> exact .of_spaces_eq rfl⟩

theorem confined_s4Flush : Confined .s4Flush := by
  refine fun s => ⟨_, rfl, ?_⟩
  rcases hf : s.bitWriter.flush with ⟨r, b⟩ | ⟨b, n⟩
  · rcases s.bitWriter.flush_cases with ⟨-, h⟩ | ⟨-, h⟩ <;> cases h.symm.trans hf
    exact (s.spacesKept_setBitWriter id).trans (.of_spaces_eq rfl)
  · have hhdr := s.spacesKept_setBitWriter (BitWriter.wf_hdr_flush hf)
    have hbits := (s.setBitWriter b).spacesKept_setCur (a := { (s.setBitWriter b).cur with hdrBits := n }) id
    rw [State.setBitWriter_tgl] at hbits
    exact (hhdr.trans hbits).trans (.of_spaces_eq rfl)

theorem confined_s5Encode : Confined .s5Encode := fun s =>
  ⟨_, rfl, s.spacesKept_submit s.encodeJob _ fun _ => .of_spaces_eq rfl⟩

theorem confined_s6Interpret : Confined .s6Interpret := by
  intro s
  rcases exec_s6Interpret_cases s with h | ⟨-, h⟩ | h | h <;> exact ⟨_, h, .of_spaces_eq rfl⟩

theorem confined_s6EmitCarry : Confined .s6EmitCarry := by
  refine fun s => ⟨_, rfl, ?_⟩
  split
  · exact .of_spaces_eq rfl
  · split
    · exact .of_spaces_eq rfl
    · exact s.spacesKept_emit _ (State.spacesKept_holdCarry _)

theorem confined_s6EmitAll : Confined .s6EmitAll := by
  refine fun s => ⟨_, rfl, ?_⟩
  split
  · exact .of_spaces_eq rfl
  · exact s.spacesKept_emit _ fun _ => .of_spaces_eq rfl

theorem confined_s6Stored : Confined .s6Stored := by
  refine fun s => ⟨_, rfl, ?_⟩
  split
  · exact .of_spaces_eq rfl
  · exact s.spacesKept_emit _ fun _ => .of_spaces_eq rfl

/-- S7.UPDATE flips TGL, and writes to neither AECS. -/
theorem confined_s7Update : Confined .s7Update := by
  refine fun s => ⟨_, rfl, ?_⟩
  have hnew : ∀ c, s.SpacesKept (!s.tgl) { s with crc := c, tgl := !s.tgl } := fun c => .of_spaces_eq rfl
  split
  · exact (hnew _).trans (State.spacesKept_endBlock _ _ _)
  · split
    · exact .of_spaces_eq rfl
    · exact (hnew _).trans (State.spacesKept_endBlock _ _ _)

theorem confined_zStored : Confined .zStored := fun s =>
  ⟨_, rfl, s.spacesKept_emit _ fun t =>
    State.SpacesKept.trans (t := t.clearCarry) (.of_spaces_eq rfl) (State.spacesKept_endBlock _ _ 0)⟩

theorem confined_hdrStored (bfinal : Bool) : Confined (.hdrStored bfinal) := by
  refine fun s => ⟨_, rfl, ?_⟩
  split
  · exact .of_spaces_eq rfl
  · split
    · exact .of_spaces_eq rfl
    · exact s.spacesKept_emit _ fun _ => .of_spaces_eq rfl

theorem confined_packedEntry (len : BitVec 4) (code : BitVec 15) : Confined (.packedEntry len code) := by
  refine fun s => ⟨_, rfl, ?_⟩
  dsimp only
  split
  · exact (s.spacesKept_setHistLL fun h => Memory.wf_setEntry _ _ _ h).trans (.of_spaces_eq rfl)
  · split
    · exact (s.spacesKept_setHistD fun h => Memory.wf_setEntry _ _ _ h).trans (.of_spaces_eq rfl)
    · exact .of_spaces_eq rfl

/-- Every instruction is confined but the host's turn, which may be hardware reset, and X.RESET, which binds a fresh sink. -/
theorem confined_of_ne {i : Instr} (hidle : i ≠ .idle) (hfaulted : i ≠ .faulted) (hreset : i ≠ .xReset) : Confined i := by
  cases i with
  | idle => exact absurd rfl hidle
  | faulted => exact absurd rfl hfaulted
  | xReset => exact absurd rfl hreset
  | reset | writeBlock _ _ | close | readAll => exact fun s => ⟨_, rfl, s.spacesKept_writeCmd _ _⟩
  | check => exact confined_check
  | xClose | s4Tokenize | s6Fatal => exact fun _ => ⟨_, rfl, .of_spaces_eq rfl⟩
  | xReadall => exact confined_xReadall
  | s1Select => exact confined_s1Select
  | s2Stat => exact confined_s2Stat
  | s3Eob => exact confined_s3Eob
  | s3HgenLl => exact confined_s3HgenLl
  | s3HgenD => exact confined_s3HgenD
  | s3CanonLl => exact confined_s3CanonLl
  | s3CanonD => exact confined_s3CanonD
  | s4HgenCl => exact confined_s4HgenCl
  | s4CanonCl => exact confined_s4CanonCl
  | s4Prefix | s4Blkhdr | s4Counts | s4Cllens | s4Seq | hdrDynamic _ | clLen _ | clRep16 _ | clRep17 _ | clRep18 _ =>
    exact fun s => ⟨_, rfl, s.spacesKept_writeFields _ _⟩
  | s4Flush => exact confined_s4Flush
  | s5Encode => exact confined_s5Encode
  | s6Interpret => exact confined_s6Interpret
  | s6EmitCarry => exact confined_s6EmitCarry
  | s6EmitAll => exact confined_s6EmitAll
  | s6Stored => exact confined_s6Stored
  | s7Update => exact confined_s7Update
  | zStored => exact confined_zStored
  | hdrStored b => exact confined_hdrStored b
  | packedEntry len code => exact confined_packedEntry len code

/-! ### What a step can do to the spaces -/

theorem accepted_eq_some_iff (r : Except DecodeError Instr) (i : Instr) : accepted r = some i ↔ r = .ok i := by
  cases r <;> simp [accepted]

/-- A wire item is no micro-operation. -/
theorem encode_fmt_of_decodeWire {w : WireWord} {i : Instr} (h : decodeWire w = some i) : (encode i).fmt ≠ .upc := by
  unfold decodeWire at h
  split at h <;> simp only [accepted_eq_some_iff, reduceCtorEq, decode] at h
  · split_ifs at h
    unfold decodeBlkhdr at h
    split_ifs at h <;> cases h <;> exact Format.noConfusion
  · split_ifs at h
    unfold decodeClsym at h
    split_ifs at h <;> cases h <;> exact Format.noConfusion
  · unfold decodePacked at h
    split_ifs at h
    cases h
    exact Format.noConfusion

theorem Confined.spacesKept {i : Instr} {s s' t : State} (hi : Confined i) (hs : s'.spaces = s.spaces) (htgl : s'.tgl = s.tgl)
    (ht : exec i s' = .next t) : s.SpacesKept (!s.tgl) t := by
  obtain ⟨t', ht', hkept⟩ := hi s'
  obtain rfl := Host.Outcome.next.inj (ht'.symm.trans ht)
  rw [htgl] at hkept
  exact State.SpacesKept.trans (.of_spaces_eq hs) hkept

theorem confined_of_encode_fmt {i : Instr} (h : (encode i).fmt ≠ .upc) : Confined i := by
  refine confined_of_ne ?_ ?_ ?_ <;>
    · rintro rfl
      exact h rfl

/-- What a step can do to the spaces: keep them as `State.SpacesKept` says, AECS[1 - TGL] untouched; be X.RESET; or be the host's
hardware reset, outside a command. -/
inductive State.SpacesStep (s t : State) : Prop where
  | kept (h : s.SpacesKept (!s.tgl) t)
  | xReset (hu : s.upc = Upc.xReset) (h : exec .xReset s = .next t)
  | hardwareReset (ready : Bool) (q : List HostAction) (hbusy : s.busy = false) (hq : s.script = .hardwareReset ready :: q)
      (h : t = { s with script := q }.hardwareReset ready)

theorem State.spacesStep_hostTurn {s : State} (hbusy : s.busy = false) : s.SpacesStep s.hostTurn := by
  rcases s.hostTurn_spaces_cases (!s.tgl) with h | ⟨ready, q, hq, h⟩
  · exact .kept h
  · exact .hardwareReset ready q hbusy hq h

theorem microOp_spacesStep {i : Instr} {s t : State} (hd : decodeUpc s.upc = .ok i) (h : exec i s = .next t) :
    s.SpacesStep t := by
  have hupc : ∀ {u}, encode i = upcWord u → s.upc = u := fun hi => upcWord_injective ((encode_of_decodeUpc hd).symm.trans hi)
  by_cases hidle : i = .idle
  · subst hidle
    obtain rfl := Host.Outcome.next.inj h
    exact State.spacesStep_hostTurn (by simp [State.busy, hupc (u := Upc.idle) rfl])
  by_cases hfaulted : i = .faulted
  · subst hfaulted
    obtain rfl := Host.Outcome.next.inj h
    exact State.spacesStep_hostTurn (by simp [State.busy, hupc (u := Upc.faulted) rfl])
  by_cases hreset : i = .xReset
  · subst hreset
    exact .xReset (hupc rfl) h
  · exact .kept ((confined_of_ne hidle hfaulted hreset).spacesKept rfl rfl h)

theorem step_spacesStep {s t : State} (h : step s = .next t) : s.SpacesStep t := by
  rcases step_cases s with ⟨w, i, -, hd, hs⟩ | ⟨w, -, -, hs⟩ | ⟨i, s', -, hc, hs⟩ | ⟨i, -, -, hd, hs⟩ | ⟨e, -, -, -, hs⟩ <;>
    rw [hs] at h
  · have hi := confined_of_encode_fmt (encode_fmt_of_decodeWire hd)
    exact .kept (hi.spacesKept (s' := { s with wire := none }) rfl rfl h)
  · cases h
  · obtain ⟨w, q, -, -, hd, rfl⟩ := fetchCommand_some s i s' hc
    obtain rfl := Host.Outcome.next.inj ((exec_of_decodeCommand hd _).symm.trans h)
    exact .kept (State.SpacesKept.trans (t := { s with script := q }) (.of_spaces_eq rfl) (State.spacesKept_writeCmd _ _ _))
  · exact microOp_spacesStep hd h
  · cases h

/-! ### The statements (R60, R66, R72) -/

/-- Settles O51: X.RESET leaves the memories, hardware reset empties them, every other step keeps their form. -/
theorem stepKeepsMemoryCanonical : Obligations.StepKeepsMemoryCanonical := by
  intro s t h ht
  rcases step_spacesStep ht with hk | ⟨-, hx⟩ | ⟨ready, q, -, -, rfl⟩
  · exact hk.memory h
  · obtain rfl := Host.Outcome.next.inj hx
    exact h
  · exact hwReset_memoryInv ready

/-- Settles O56: the two steps that end the sink's binding are the ones set aside. -/
theorem sinkIsAppendOnly : Obligations.SinkIsAppendOnly := by
  intro s t hreset hhost ht
  rcases step_spacesStep ht with hk | ⟨hu, -⟩ | ⟨ready, q, -, hq, -⟩
  · exact hk.sink
  · exact absurd hu hreset
  · exact absurd hq (hhost ready q)

/-- Settles O57: X.RESET writes to neither AECS, and hardware reset comes outside a command only. -/
theorem otherInstanceIsUntouched : Obligations.OtherInstanceIsUntouched := by
  intro s t hbusy ht
  rcases step_spacesStep ht with hk | ⟨-, hx⟩ | ⟨ready, q, hidle, -⟩
  · exact hk.aecs_eq
  · obtain rfl := Host.Outcome.next.inj hx
    rfl
  · exact absurd hbusy (by simp [hidle])

end Sys2Proof.Machine

/-! Proofs of the statements about the encodings (spec/30_encoding.md). -/

namespace Sys2Proof.Machine

/-! ### The fields of the words (R91, R96, R98, R101) -/

/-- A part of a field, read at its own place in the register. -/
theorem extractLsb'_fieldAt_part {w : Nat} (v : BitVec w) (k a n : Nat) (h : k + a + n ≤ 32) :
    (fieldAt v k).extractLsb' (k + a) n = v.extractLsb' a n :=
  BitVec.eq_of_getLsbD_eq fun i hi => by
    have hlt : k + (a + i) < 32 := by omega
    rw [BitVec.getLsbD_extractLsb', BitVec.getLsbD_extractLsb', getLsbD_fieldAt]
    simp [hlt, Nat.add_assoc]

/-- A field of a word, put back at its place. -/
theorem getLsbD_fieldAt_extractLsb' (w : Word) (k n i : Nat) :
    (fieldAt (w.extractLsb' k n) k).getLsbD i = (decide (k ≤ i) && decide (i < k + n) && w.getLsbD i) := by
  rw [getLsbD_fieldAt, BitVec.getLsbD_extractLsb']
  by_cases hk : k ≤ i
  · by_cases hi : i < 32
    · simp [hk, hi, show i - k < n ↔ i < k + n by omega]
    · simp [hi, BitVec.getLsbD_of_ge w i (by omega)]
  · simp [hk]

theorem commandWord_eq_fields (op : BitVec 4) (final : Bool) (len : BitVec 16) :
    commandWord op final len = fieldAt op 0 ||| bitAt final 4 ||| fieldAt len 16 := by
  simp [commandWord, fieldAt, bitAt]

theorem packedBits_eq_fields (len : BitVec 4) (code : BitVec 15) : packedBits len code = fieldAt len 15 ||| fieldAt code 0 := by
  simp [packedBits, fieldAt]

theorem clsymBits_eq_fields (sym : BitVec 5) (extra : BitVec 7) :
    (clsymBits sym extra).setWidth 32 = fieldAt sym 0 ||| fieldAt extra 5 := by
  ext k hk
  simp only [clsymBits, fieldAt]
  interval_cases k <;> simp

theorem commandWord_fields (op : BitVec 4) (final : Bool) (len : BitVec 16) :
    cmdOp (commandWord op final len) = op ∧ cmdFinal (commandWord op final len) = final ∧
      cmdZero (commandWord op final len) = 0#11 ∧ cmdLen (commandWord op final len) = len := by
  have hfinal : cmdFinal (commandWord op final len) = final := by
    simp only [cmdFinal, commandWord_eq_fields, BitVec.getLsbD_or, getLsbD_fieldAt, getLsbD_bitAt]
    simp
  refine ⟨?_, hfinal, ?_, ?_⟩ <;>
    simp [cmdOp, cmdZero, cmdLen, commandWord_eq_fields, BitVec.extractLsb'_or, extractLsb'_fieldAt_same,
      extractLsb'_fieldAt_disjoint, extractLsb'_bitAt_disjoint]

/-- A command word is known by its fields. -/
theorem commandWord_of_fields {w : Word} {op : BitVec 4} {final : Bool} {len : BitVec 16} (h : cmdZero w = 0#11)
    (hop : cmdOp w = op) (hfinal : cmdFinal w = final) (hlen : cmdLen w = len) : commandWord op final len = w := by
  subst hop hfinal hlen
  refine BitVec.eq_of_getLsbD_eq fun i hi => ?_
  have hzero : 5 ≤ i → i < 16 → w.getLsbD i = false := fun hlo hhi => by
    have hbit : (cmdZero w).getLsbD (i - 5) = false := by simp [h]
    rwa [cmdZero, BitVec.getLsbD_extractLsb', decide_eq_true (by omega), Bool.true_and, Nat.add_sub_cancel' hlo] at hbit
  simp only [commandWord_eq_fields, cmdOp, cmdFinal, cmdLen, BitVec.getLsbD_or, getLsbD_fieldAt_extractLsb', getLsbD_bitAt]
  rcases (by omega : i < 4 ∨ i = 4 ∨ 5 ≤ i ∧ i < 16 ∨ 16 ≤ i) with hop | rfl | ⟨hlo, hhi⟩ | hlen
  · simp [hop, show i ≠ 4 by omega, show ¬16 ≤ i by omega]
  · simp
  · simp [hzero hlo hhi, show i ≠ 4 by omega]
  · simp [hlen, hi, show i ≠ 4 by omega, show ¬i < 4 by omega]

theorem packedBits_fields (len : BitVec 4) (code : BitVec 15) :
    (packedBits len code).extractLsb' 0 15 = code ∧ (packedBits len code).extractLsb' 15 4 = len ∧
      (packedBits len code).extractLsb' 19 13 = 0 := by
  simp [packedBits_eq_fields, BitVec.extractLsb'_or, extractLsb'_fieldAt_same, extractLsb'_fieldAt_disjoint]

theorem clsymBits_symbol (sym : BitVec 5) (extra : BitVec 7) (a n : Nat) (h : a + n ≤ 5) :
    (clsymBits sym extra).extractLsb' a n = sym.extractLsb' a n := by
  have hsym := extractLsb'_fieldAt_part sym 0 a n (by omega)
  rw [Nat.zero_add] at hsym
  rw [← BitVec.extractLsb'_setWidth_of_le (w' := 32) (by omega), clsymBits_eq_fields, BitVec.extractLsb'_or, hsym,
    extractLsb'_fieldAt_disjoint extra 5 a n (.inr h), BitVec.or_zero]

theorem clsymBits_extra (sym : BitVec 5) (extra : BitVec 7) (a n : Nat) (h : a + n ≤ 7) :
    (clsymBits sym extra).extractLsb' (5 + a) n = extra.extractLsb' a n := by
  rw [← BitVec.extractLsb'_setWidth_of_le (w' := 32) (by omega), clsymBits_eq_fields, BitVec.extractLsb'_or,
    extractLsb'_fieldAt_disjoint sym 0 (5 + a) n (.inl (by omega)), extractLsb'_fieldAt_part extra 5 a n (by omega),
    BitVec.zero_or]

/-! ### Decoding what the encoder writes (R91, R92, R30, R98, R101, R96) -/

/-- A word has no bit set above its width. -/
theorem extractLsb'_width_eq_zero {n : Nat} (v : BitVec n) (m : Nat) : v.extractLsb' n m = 0#m :=
  BitVec.eq_of_getLsbD_eq fun i _ => by simp

theorem decode_upcWord (u : BitVec 8) : decode .upc (upcWord u).bits = decodeUpc u := by
  simp [decode, upcWord, extractLsb'_width_eq_zero, BitVec.extractLsb'_setWidth_of_le]

theorem decode_blkhdr_setWidth (w : BitVec 3) : decode .blkhdr3 (w.setWidth 32) = decodeBlkhdr w := by
  simp [decode, extractLsb'_width_eq_zero, BitVec.extractLsb'_setWidth_of_le]

theorem decode_clsym_setWidth (w : BitVec 12) : decode .clsym (w.setWidth 32) = decodeClsym w := by
  simp [decode, extractLsb'_width_eq_zero, BitVec.extractLsb'_setWidth_of_le]

theorem decode_packedBits (len : BitVec 4) (code : BitVec 15) :
    decode .packed32 (packedBits len code) = .ok (.packedEntry len code) := by
  simp [decode, decodePacked, packedBits_fields]

theorem decodeCommand_writeBlock (final : Bool) (len : BitVec 16) :
    decodeCommand (commandWord 2#4 final len) = .ok (.writeBlock final len) := by
  simp [decodeCommand, commandWord_fields]

/-- A row of R30's table, as the encoder and the decoder read it. -/
theorem decode_encode_of_upc {i : Instr} {u : BitVec 8} (hi : encode i = upcWord u) (hu : decodeUpc u = .ok i) :
    decode (encode i).fmt (encode i).bits = .ok i := by
  rw [hi]
  exact (decode_upcWord u).trans hu

theorem decodeBlkhdr_blkhdrBits (bfinal : Bool) :
    decodeBlkhdr (blkhdrBits 2#2 bfinal) = .ok (.hdrDynamic bfinal) ∧
      decodeBlkhdr (blkhdrBits 0#2 bfinal) = .ok (.hdrStored bfinal) := by
  cases bfinal <;> decide

theorem decodeClsym_clLen (value : BitVec 4) : decodeClsym (clsymBits (value.setWidth 5) 0#7) = .ok (.clLen value) := by
  simp [decodeClsym, clsymBits_symbol, clsymBits_extra _ _ 0 7, BitVec.extractLsb'_setWidth_of_le, extractLsb'_width_eq_zero]

theorem decodeClsym_clRep16 (extra : BitVec 2) : decodeClsym (clsymBits 16#5 (extra.setWidth 7)) = .ok (.clRep16 extra) := by
  simp [decodeClsym, clsymBits_symbol, clsymBits_extra _ _ 0 2, clsymBits_extra _ _ 2 5, BitVec.extractLsb'_setWidth_of_le,
    extractLsb'_width_eq_zero]

theorem decodeClsym_clRep17 (extra : BitVec 3) : decodeClsym (clsymBits 17#5 (extra.setWidth 7)) = .ok (.clRep17 extra) := by
  simp [decodeClsym, clsymBits_symbol, clsymBits_extra _ _ 0 3, clsymBits_extra _ _ 3 4, BitVec.extractLsb'_setWidth_of_le,
    extractLsb'_width_eq_zero]

theorem decodeClsym_clRep18 (extra : BitVec 7) : decodeClsym (clsymBits 18#5 extra) = .ok (.clRep18 extra) := by
  simp [decodeClsym, clsymBits_symbol, clsymBits_extra _ _ 0 7]

/-- Settles O1, format by format. The decoder does not test a packed entry's code (log 42), so no case needs well-formedness. -/
theorem decodeEncodeRoundTrip : Obligations.DecodeEncodeRoundTrip := by
  intro i _
  cases i with
  | writeBlock final len => exact decodeCommand_writeBlock final len
  | hdrDynamic bfinal => exact (decode_blkhdr_setWidth _).trans (decodeBlkhdr_blkhdrBits bfinal).1
  | hdrStored bfinal => exact (decode_blkhdr_setWidth _).trans (decodeBlkhdr_blkhdrBits bfinal).2
  | clLen value => exact (decode_clsym_setWidth _).trans (decodeClsym_clLen value)
  | clRep16 extra => exact (decode_clsym_setWidth _).trans (decodeClsym_clRep16 extra)
  | clRep17 extra => exact (decode_clsym_setWidth _).trans (decodeClsym_clRep17 extra)
  | clRep18 extra => exact (decode_clsym_setWidth _).trans (decodeClsym_clRep18 extra)
  | packedEntry len code => exact decode_packedBits len code
  | reset => rfl
  | close => rfl
  | readAll => rfl
  | _ => exact decode_encode_of_upc rfl rfl

/-! ### Command words (R91, R92, R94, R111) -/

theorem cmdZero_of_decodeCommand {w : Word} {i : Instr} (h : decodeCommand w = .ok i) : cmdZero w = 0#11 := by
  by_contra hz
  simp [decodeCommand, hz] at h

/-- A legal word is the encoding of the command that it stands for. -/
theorem encode_of_decodeCommand {w : Word} {i : Instr} (h : decodeCommand w = .ok i) : encode i = ⟨.s, w⟩ := by
  have hz := cmdZero_of_decodeCommand h
  rcases decodeCommand_ok_cases h with ⟨hop, rfl, hf, hl⟩ | ⟨hop, rfl⟩ | ⟨hop, rfl, hf, hl⟩ | ⟨hop, rfl, hf, hl⟩
  · exact congrArg _ (commandWord_of_fields hz hop hf hl)
  · exact congrArg _ (commandWord_of_fields hz hop rfl rfl)
  · exact congrArg _ (commandWord_of_fields hz hop hf hl)
  · exact congrArg _ (commandWord_of_fields hz hop hf hl)

theorem decodeCommand_plain {w : Word} (hz : cmdZero w = 0#11) (hop : cmdOp w = 1#4 ∨ cmdOp w = 3#4 ∨ cmdOp w = 4#4)
    (hf : cmdFinal w = false) (hl : cmdLen w = 0#16) : ∃ i, decodeCommand w = .ok i := by
  rcases hop with hop | hop | hop <;> simp [decodeCommand, plainCommand, hz, hop, hf, hl]

theorem decodeCommand_of_writeBlock {w : Word} (hz : cmdZero w = 0#11) (hop : cmdOp w = 2#4) :
    decodeCommand w = .ok (.writeBlock (cmdFinal w) (cmdLen w)) := by
  simp [decodeCommand, hz, hop]

/-- Settles O2: a word that the decoder accepts is legal, and the decoder accepts every legal word. -/
theorem commandDecoderTotal : Obligations.CommandDecoderTotal := by
  intro w legal
  refine ⟨fun hillegal => ?_, fun ⟨hz, hlegal⟩ => ?_⟩
  · cases hd : decodeCommand w with
    | error e => exact ⟨e, rfl⟩
    | ok i =>
      refine absurd ⟨cmdZero_of_decodeCommand hd, ?_⟩ hillegal
      rcases decodeCommand_ok_cases hd with ⟨hop, -, hfl⟩ | ⟨hop, -⟩ | ⟨hop, -, hfl⟩ | ⟨hop, -, hfl⟩
      · exact .inr ⟨.inl hop, hfl⟩
      · exact .inl hop
      · exact .inr ⟨.inr (.inl hop), hfl⟩
      · exact .inr ⟨.inr (.inr hop), hfl⟩
  · obtain ⟨i, hd⟩ : ∃ i, decodeCommand w = .ok i := by
      rcases hlegal with hop | ⟨hop, hf, hl⟩
      · exact ⟨_, decodeCommand_of_writeBlock hz hop⟩
      · exact decodeCommand_plain hz hop hf hl
    refine ⟨i, hd, encode_of_decodeCommand hd, ?_⟩
    rcases decodeCommand_ok_cases hd with ⟨-, hi, -⟩ | ⟨-, hi⟩ | ⟨-, hi, -⟩ | ⟨-, hi, -⟩ <;> simp [hi]

/-- Settles O3, each word evaluated by the decoder. -/
theorem writtenWordsDecode : Obligations.WrittenWordsDecode :=
  ⟨rfl, rfl, rfl, rfl, rfl, rfl, rfl, rfl, rfl⟩

/-! ### The packed entry (R96) -/

theorem packedEntry_toNat {len code : Nat} (hlen : len ≤ 15) (hcode : code < 2 ^ 15) :
    (packedEntry len code).toNat = len * 2 ^ 15 + code := by
  rw [packedEntry, BitVec.toNat_ofNat, ← Nat.shiftLeft_add_eq_or_of_lt hcode, Nat.shiftLeft_eq]
  exact Nat.mod_eq_of_lt (by omega)

/-- The entry that CANON writes is the word of the instruction PACKED_ENTRY. -/
theorem packedEntry_eq_packedBits {len code : Nat} (hlen : len ≤ 15) (hcode : code < 2 ^ 15) :
    packedEntry len code = packedBits (BitVec.ofNat 4 len) (BitVec.ofNat 15 code) := by
  refine BitVec.eq_of_toNat_eq ?_
  simp [packedEntry, packedBits, Nat.mod_eq_of_lt (show len < 16 by omega), Nat.mod_eq_of_lt (show len < 4294967296 by omega),
    Nat.mod_eq_of_lt (show code < 32768 by omega)]

/-- Settles O30: a code of at most 15 bits lies in its field, so the entry is the word of a PACKED_ENTRY. -/
theorem packedEntryFields : Obligations.PackedEntryFields := by
  intro len code hlen hcode
  have hcode15 : code < 2 ^ 15 := hcode.trans_le (Nat.pow_le_pow_right (by decide) hlen)
  obtain ⟨hc, hl, hz⟩ := packedBits_fields (BitVec.ofNat 4 len) (BitVec.ofNat 15 code)
  rw [← packedEntry_eq_packedBits hlen hcode15] at hc hl hz
  refine ⟨packedEntry_toNat hlen hcode15, hc, hl, hz, fun h => ?_⟩
  subst h
  obtain rfl : code = 0 := by simpa using hcode
  rfl

/-! ### A wire item handed over (R104, R110, log 14) -/

/-- Settles O7: the fetch looks at the wire first. -/
theorem stepRunsWireItem : Obligations.StepRunsWireItem := by
  intro s w hw
  refine ⟨fun i hd => ?_, fun hd => ?_⟩ <;> simp [step, fetch, hw, hd]

/-! ### Canonical codes (R103, R140, R141) -/

theorem firstCode_succ (lens : List Nat) (l : Nat) :
    firstCode lens (l + 1) = (firstCode lens l + lengthCount lens l) * 2 := by
  rw [firstCode, Nat.shiftLeft_eq, pow_one]

/-- The first code past those of length l, extended with zero bits, is not above the first code of any greater length. -/
theorem mul_two_pow_le_firstCode (lens : List Nat) (l d : Nat) :
    (firstCode lens l + lengthCount lens l) * 2 ^ (d + 1) ≤ firstCode lens (l + (d + 1)) := by
  induction d with
  | zero => exact (firstCode_succ lens l).ge
  | succ d ih =>
    calc (firstCode lens l + lengthCount lens l) * 2 ^ (d + 1 + 1)
        = (firstCode lens l + lengthCount lens l) * 2 ^ (d + 1) * 2 := by rw [pow_succ, mul_assoc]
      _ ≤ (firstCode lens (l + (d + 1)) + lengthCount lens (l + (d + 1))) * 2 :=
          Nat.mul_le_mul_right 2 (ih.trans (Nat.le_add_right _ _))
      _ = firstCode lens (l + (d + 1 + 1)) := (firstCode_succ lens (l + (d + 1))).symm

theorem canonicalCode_of_used {lens : List Nat} {i : Nat} (h : 0 < lens.getD i 0) :
    canonicalCode lens i = firstCode lens (lens.getD i 0) + (lens.take i).count (lens.getD i 0) :=
  if_neg h.ne'

/-- Among the symbols of one length the codes rise with the index. -/
theorem count_take_lt {lens : List Nat} {i j : Nat} (hi : i < lens.length) (hij : i < j) :
    (lens.take i).count (lens.getD i 0) < (lens.take j).count (lens.getD i 0) := by
  have hnext : (lens.take (i + 1)).count (lens.getD i 0) = (lens.take i).count (lens.getD i 0) + 1 := by
    rw [List.take_add_one, List.count_append, List.getElem?_eq_getElem hi, List.getD_eq_getElem _ _ hi]
    simp
  calc (lens.take i).count (lens.getD i 0)
      < (lens.take (i + 1)).count (lens.getD i 0) := by omega
    _ ≤ (lens.take j).count (lens.getD i 0) := (List.take_sublist_take_left hij).count_le _

/-- The codes of a length are those from its first one on, as many as it has symbols. -/
theorem canonicalCode_lt {lens : List Nat} {i : Nat} (hi : i < lens.length) (h : 0 < lens.getD i 0) :
    canonicalCode lens i < firstCode lens (lens.getD i 0) + lengthCount lens (lens.getD i 0) := by
  have hcount := count_take_lt hi hi
  rw [List.take_length] at hcount
  rw [canonicalCode_of_used h, lengthCount, if_neg h.ne']
  omega

theorem canonicalCode_lt_of_same_length {lens : List Nat} {i j : Nat} (hi : i < lens.length) (hij : i < j)
    (h : 0 < lens.getD i 0) (hlen : lens.getD j 0 = lens.getD i 0) : canonicalCode lens i < canonicalCode lens j := by
  rw [canonicalCode_of_used h, canonicalCode_of_used (hlen ▸ h), hlen]
  exact Nat.add_lt_add_left (count_take_lt hi hij) _

/-- The first bits of a longer code are above every code of their length. -/
theorem canonicalCode_lt_div {lens : List Nat} {i j : Nat} (hi : i < lens.length) (h : 0 < lens.getD i 0)
    (hlt : lens.getD i 0 < lens.getD j 0) :
    canonicalCode lens i < canonicalCode lens j / 2 ^ (lens.getD j 0 - lens.getD i 0) := by
  refine (canonicalCode_lt hi h).trans_le ((Nat.le_div_iff_mul_le (Nat.two_pow_pos _)).mpr ?_)
  obtain ⟨d, hd⟩ := Nat.exists_eq_add_of_lt hlt
  calc (firstCode lens (lens.getD i 0) + lengthCount lens (lens.getD i 0)) * 2 ^ (lens.getD j 0 - lens.getD i 0)
      ≤ firstCode lens (lens.getD j 0) := by
        rw [hd, Nat.add_assoc, Nat.add_sub_cancel_left]
        exact mul_two_pow_le_firstCode lens _ d
    _ ≤ canonicalCode lens j := by
        rw [canonicalCode_of_used (h.trans hlt)]
        exact Nat.le_add_right _ _

/-- Settles O27: codes of one length differ by their rank, and the first bits of a longer code lie above the shorter codes. Neither
needs the codes to fit their lengths. -/
theorem canonIsPrefixFree : Obligations.CanonIsPrefixFree := by
  intro lens L i j _ _ hi hj hij hused hle
  rcases hle.eq_or_lt with heq | hlt
  · rw [heq, Nat.sub_self, pow_zero, Nat.div_one]
    rcases hij.lt_or_gt with hlt | hgt
    · exact (canonicalCode_lt_of_same_length hi hlt hused heq.symm).ne'
    · exact (canonicalCode_lt_of_same_length hj hgt (heq ▸ hused) heq).ne
  · exact (canonicalCode_lt_div hi hused hlt).ne'

end Sys2Proof.Machine

/-! Proofs of the statements about the Huffman Tree Generator (spec/40_huffman_generator.md). -/

namespace Sys2Proof.Machine

/-! ### Package-merge: the first items of a row are the first leaves and the first packages (R139) -/

/-- The symbols of some items, each as often as it stands in them. -/
def itemSyms (items : List HuffItem) : List Nat := items.flatMap HuffItem.syms

@[simp] theorem itemSyms_cons (x : HuffItem) (items : List HuffItem) :
    itemSyms (x :: items) = x.syms ++ itemSyms items := rfl

@[simp] theorem itemSyms_append (xs ys : List HuffItem) : itemSyms (xs ++ ys) = itemSyms xs ++ itemSyms ys :=
  List.flatMap_append

@[simp] theorem huffMerge_nil (ps : List HuffItem) : huffMerge [] ps = ps := rfl

@[simp] theorem huffMerge_cons_nil (a : HuffItem) (as : List HuffItem) : huffMerge (a :: as) [] = a :: huffMerge as [] := rfl

theorem huffMerge_cons_cons (a p : HuffItem) (as ps : List HuffItem) :
    huffMerge (a :: as) (p :: ps) =
      if a.w ≤ p.w then a :: huffMerge as (p :: ps) else p :: huffMerge (a :: as) ps := rfl

/-- MERGE keeps the order of either list, and a package goes before a leaf only if it is lighter. -/
theorem take_huffMerge {as : List HuffItem} (ps : List HuffItem) (hsorted : as.Pairwise HuffItem.le) (n : Nat) :
    ∃ p q, q ≤ ps.length ∧ ((huffMerge as ps).take n).Perm (as.take p ++ ps.take q) ∧
      ∀ x ∈ ps.take q, ∀ a ∈ as.drop p, x.w < a.w := by
  induction as generalizing ps n with
  | nil => exact ⟨0, min n ps.length, min_le_right _ _, by simp [← List.take_eq_take_min], by simp⟩
  | cons a as ihas =>
    have hleaf : ∀ ps : List HuffItem, ∀ n, ∃ p q, q ≤ ps.length ∧
        (a :: (huffMerge as ps).take n).Perm ((a :: as).take p ++ ps.take q) ∧
        ∀ x ∈ ps.take q, ∀ b ∈ (a :: as).drop p, x.w < b.w := fun ps n => by
      obtain ⟨p, q, hq, hperm, hlt⟩ := ihas ps hsorted.of_cons n
      exact ⟨p + 1, q, hq, hperm.cons a, hlt⟩
    induction ps generalizing n with
    | nil =>
      cases n with
      | zero => exact ⟨0, 0, le_rfl, by simp, by simp⟩
      | succ n => exact hleaf [] n
    | cons x ps ihps =>
      cases n with
      | zero => exact ⟨0, 0, Nat.zero_le _, by simp, by simp⟩
      | succ n =>
        rw [huffMerge_cons_cons]
        split_ifs with hle
        · exact hleaf (x :: ps) n
        · obtain ⟨p, q, hq, hperm, hlt⟩ := ihps n
          refine ⟨p, q + 1, Nat.succ_le_succ hq, (hperm.cons x).trans List.perm_middle.symm,
            List.forall_mem_cons.mpr ⟨fun b hb => ?_, hlt⟩⟩
          rcases List.mem_cons.mp (List.mem_of_mem_drop hb) with rfl | hb
          · exact Nat.lt_of_not_le hle
          · exact (Nat.lt_of_not_le hle).trans_le (List.rel_of_pairwise_cons hsorted hb)

theorem length_huffMerge (as ps : List HuffItem) : (huffMerge as ps).length = as.length + ps.length := by
  induction as generalizing ps with
  | nil => simp
  | cons a as ihas =>
    induction ps with
    | nil => simp [ihas]
    | cons x ps ihps =>
      rw [huffMerge_cons_cons]
      split_ifs
      · simp only [List.length_cons, ihas]; omega
      · simp only [List.length_cons, ihps]; omega

theorem length_huffPackages : ∀ row : List HuffItem, (huffPackages row).length = row.length / 2
  | [] => rfl
  | [_] => by simp [huffPackages]
  | a :: b :: t => by simp only [huffPackages, List.length_cons, length_huffPackages t]; omega

/-- The first packages hold the symbols of the items they are joined from. -/
theorem itemSyms_take_huffPackages : ∀ {row : List HuffItem} {q : Nat}, 2 * q ≤ row.length →
    itemSyms ((huffPackages row).take q) = itemSyms (row.take (2 * q))
  | row, 0, _ => rfl
  | [], q + 1, h | [_], q + 1, h => by simp only [List.length_cons, List.length_nil] at h; omega
  | a :: b :: t, q + 1, h => by
    simp [huffPackages, Nat.mul_succ, itemSyms_take_huffPackages (Nat.le_of_add_le_add_right (b := 2) h)]

/-- A package is no lighter than an item it is joined from. -/
theorem exists_package_of_mem_take : ∀ {row : List HuffItem} {q : Nat}, 2 * q ≤ row.length →
    ∀ x ∈ row.take (2 * q), ∃ y ∈ (huffPackages row).take q, x.w ≤ y.w
  | row, 0, _ => by simp
  | [], q + 1, h | [_], q + 1, h => by simp only [List.length_cons, List.length_nil] at h; omega
  | a :: b :: t, q + 1, h => by
    simp only [huffPackages, Nat.mul_succ, List.take_succ_cons, List.mem_cons]
    rintro x (rfl | rfl | hx)
    · exact ⟨_, .inl rfl, Nat.le_add_right _ _⟩
    · exact ⟨_, .inl rfl, Nat.le_add_left _ _⟩
    · obtain ⟨y, hy, hle⟩ := exists_package_of_mem_take (Nat.le_of_add_le_add_right (b := 2) h) x hx
      exact ⟨y, .inr hy, hle⟩

/-! ### Package-merge: the Kraft equality, row by row (R136, R139) -/

/-- The Kraft sum, times 2^cap, of the lengths that some items stand for: a symbol's length is how often it stands in them. -/
def itemKraft (leaves items : List HuffItem) (cap : Nat) : Nat :=
  ((itemSyms leaves).map fun i => 2 ^ (cap - (itemSyms items).count i)).sum

/-- The leaves of R139: sorted by weight, one symbol in each, no symbol twice. -/
structure LeavesOk (leaves : List HuffItem) : Prop where
  sorted : leaves.Pairwise HuffItem.le
  single : ∀ a ∈ leaves, ∃ i, a.syms = [i]
  nodup : (itemSyms leaves).Nodup

/-- What the first items of the row with cap `cap` give: the leaf of each of their symbols stands among them, no length is above
`cap`, and the Kraft sum falls by half of 2^cap with each item, so that 2m - 2 items leave 2^cap. -/
structure PrefixFits (leaves items : List HuffItem) (cap : Nat) : Prop where
  leaf : ∀ i ∈ itemSyms items, ∃ a ∈ items, a ∈ leaves ∧ a.syms = [i]
  count_le : ∀ i, (itemSyms items).count i ≤ cap
  kraft : 2 * itemKraft leaves items cap + items.length * 2 ^ cap = 2 * leaves.length * 2 ^ cap

theorem length_itemSyms {items : List HuffItem} (h : ∀ a ∈ items, ∃ i, a.syms = [i]) :
    (itemSyms items).length = items.length := by
  induction items with
  | nil => rfl
  | cons a items ih =>
    obtain ⟨⟨i, hi⟩, hrest⟩ := List.forall_mem_cons.mp h
    simp [hi, ih hrest]

theorem prefixFits_nil {leaves : List HuffItem} (h : LeavesOk leaves) : PrefixFits leaves [] 0 where
  leaf := by simp [itemSyms]
  count_le := by simp [itemSyms]
  kraft := by simp [itemKraft, length_itemSyms h.single]

/-- The symbols of the packages taken are symbols of the leaves taken: a package is no lighter than a leaf joined into it, so that
leaf goes first. -/
theorem PrefixFits.syms_subset {leaves row : List HuffItem} {cap p q : Nat} (h : PrefixFits leaves (row.take (2 * q)) cap)
    (hq : 2 * q ≤ row.length) (hlt : ∀ x ∈ (huffPackages row).take q, ∀ a ∈ leaves.drop p, x.w < a.w) :
    ∀ i ∈ itemSyms (row.take (2 * q)), i ∈ itemSyms (leaves.take p) := by
  intro i hi
  obtain ⟨a, ha, hleaf, hsyms⟩ := h.leaf i hi
  rw [← List.take_append_drop p leaves] at hleaf
  rcases List.mem_append.mp hleaf with hfront | hback
  · exact List.mem_flatMap.mpr ⟨a, hfront, by simp [hsyms]⟩
  · obtain ⟨y, hy, hle⟩ := exists_package_of_mem_take hq a ha
    exact absurd (hlt y hy a hback) (Nat.not_lt.mpr hle)

/-- The Kraft sum with the leaves in front counted once more: those symbols' summands stay, all others double. -/
theorem itemKraft_merge {front back items taken : List HuffItem} {cap : Nat} (h : LeavesOk (front ++ back))
    (hsub : ∀ i ∈ itemSyms taken, i ∈ itemSyms front)
    (hcount : ∀ i, (itemSyms items).count i = (itemSyms front).count i + (itemSyms taken).count i) :
    itemKraft (front ++ back) items (cap + 1) = itemKraft (front ++ back) taken cap + back.length * 2 ^ cap := by
  have hnd := h.nodup
  rw [itemSyms_append, List.nodup_append'] at hnd
  obtain ⟨hfront, -, hdisj⟩ := hnd
  have hback : (itemSyms back).length = back.length :=
    length_itemSyms fun a ha => h.single a (List.mem_append_right _ ha)
  have hin : ∀ i ∈ itemSyms front, 2 ^ (cap + 1 - (itemSyms items).count i) = 2 ^ (cap - (itemSyms taken).count i) :=
    fun i hi => by
      rw [hcount, List.count_eq_one_of_mem hfront hi, Nat.add_comm 1, Nat.add_sub_add_right]
  have hout : ∀ i ∈ itemSyms back, (itemSyms taken).count i = 0 ∧ (itemSyms items).count i = 0 := fun i hi => by
    have hnot : i ∉ itemSyms front := fun hf => hdisj hf hi
    have htaken := List.count_eq_zero_of_not_mem fun ht => hnot (hsub i ht)
    exact ⟨htaken, by rw [hcount, htaken, List.count_eq_zero_of_not_mem hnot]⟩
  have hsum : ∀ its c, (∀ i ∈ itemSyms back, (itemSyms its).count i = 0) →
      ((itemSyms back).map fun i => 2 ^ (c - (itemSyms its).count i)).sum = back.length * 2 ^ c := fun its c hz => by
    rw [List.sum_eq_card_nsmul _ (2 ^ c) (List.forall_mem_map.mpr fun i hi => by rw [hz i hi, Nat.sub_zero]),
      List.length_map, hback, smul_eq_mul]
  simp only [itemKraft, itemSyms_append, List.map_append, List.sum_append, List.map_congr_left hin,
    hsum items _ fun i hi => (hout i hi).2, hsum taken _ fun i hi => (hout i hi).1]
  ring

/-- One round of package-merge: what holds of the first items of a row holds of those of the next, with one bit more. -/
theorem prefixFits_huffMerge {leaves row : List HuffItem} {cap : Nat} (hleaves : LeavesOk leaves)
    (hrow : ∀ n, PrefixFits leaves (row.take n) cap) (n : Nat) :
    PrefixFits leaves ((huffMerge leaves (huffPackages row)).take n) (cap + 1) := by
  obtain ⟨p, q, hq, hperm, hlt⟩ := take_huffMerge (huffPackages row) hleaves.sorted n
  have hq2 : 2 * q ≤ row.length := by rw [length_huffPackages] at hq; omega
  have hpre := hrow (2 * q)
  have hsub := hpre.syms_subset hq2 hlt
  have hsyms : (itemSyms ((huffMerge leaves (huffPackages row)).take n)).Perm
      (itemSyms (leaves.take p) ++ itemSyms (row.take (2 * q))) := by
    rw [← itemSyms_take_huffPackages hq2, ← itemSyms_append]
    exact hperm.flatMap_right _
  have hcount := fun i => (hsyms.count_eq i).trans List.count_append
  have hnodup : (itemSyms (leaves.take p)).Nodup := by
    have hnd := hleaves.nodup
    rw [← List.take_append_drop p leaves, itemSyms_append] at hnd
    exact hnd.of_append_left
  refine ⟨fun i hi => ?_, fun i => ?_, ?_⟩
  · have hfront : i ∈ itemSyms (leaves.take p) := (List.mem_append.mp (hsyms.mem_iff.mp hi)).elim id (hsub i)
    obtain ⟨a, ha, hai⟩ := List.mem_flatMap.mp hfront
    obtain ⟨j, hj⟩ := hleaves.single a (List.mem_of_mem_take ha)
    obtain rfl : i = j := by simpa [hj] using hai
    exact ⟨a, hperm.mem_iff.mpr (List.mem_append_left _ ha), List.mem_of_mem_take ha, hj⟩
  · have hone := List.nodup_iff_count_le_one.mp hnodup i
    have hle := hpre.count_le i
    rw [hcount]
    omega
  · have hlen : leaves.length = (leaves.take p).length + (leaves.drop p).length := by
      rw [← List.length_append, List.take_append_drop]
    have hitems := hperm.length_eq
    have hkraft := itemKraft_merge (cap := cap) (front := leaves.take p) (back := leaves.drop p)
      ((List.take_append_drop p leaves).symm ▸ hleaves) hsub hcount
    have hih := hpre.kraft
    rw [List.take_append_drop] at hkraft
    rw [List.length_append, List.length_take_of_le hq] at hitems
    rw [List.length_take_of_le hq2] at hih
    rw [hkraft, hitems, pow_succ]
    rw [hlen] at hih ⊢
    linarith

theorem prefixFits_huffRounds {leaves : List HuffItem} (h : LeavesOk leaves) (k n : Nat) :
    PrefixFits leaves ((huffRounds leaves k).take n) (k + 1) := by
  induction k generalizing n with
  | zero =>
    have hrow := prefixFits_huffMerge (row := []) h (fun n => by simpa using prefixFits_nil h) n
    have hmerge : ∀ as, huffMerge as [] = as := fun as => by
      induction as with
      | nil => rfl
      | cons a as ih => rw [huffMerge_cons_nil, ih]
    simpa [huffPackages, hmerge, huffRounds] using hrow
  | succ k ih => exact prefixFits_huffMerge h ih n

/-- What a row lacks to 2m - 1 items halves with every round, so that 2^(k+1) symbols need no more than k rounds. -/
theorem le_length_huffRounds {leaves : List HuffItem} (k : Nat) :
    2 * leaves.length ≤ (huffRounds leaves k).length + 1 + (leaves.length - 1) / 2 ^ k := by
  induction k with
  | zero => simp only [huffRounds, pow_zero, Nat.div_one]; omega
  | succ k ih =>
    rw [huffRounds, length_huffMerge, length_huffPackages, pow_succ, ← Nat.div_div_eq_div_mul]
    omega

/-! ### Package-merge: its lengths meet the contract (R132, R136) -/

/-- The used symbols with their frequencies, in index order. -/
def usedPairs (freq : List Nat) : List (Nat × Nat) := freq.zipIdx.filter fun p => 0 < p.1

theorem mem_usedPairs_snd {freq : List Nat} {i : Nat} : i ∈ (usedPairs freq).map Prod.snd ↔ 0 < freq.getD i 0 := by
  simp only [usedPairs, List.mem_map, List.mem_filter, List.mem_zipIdx_iff_getElem?, decide_eq_true_eq, Prod.exists]
  constructor
  · rintro ⟨f, j, ⟨hf, hpos⟩, rfl⟩
    simpa [List.getD, hf] using hpos
  · intro h
    cases hf : freq[i]? with
    | none => simp [List.getD, hf] at h
    | some f => exact ⟨f, i, ⟨hf, by simpa [List.getD, hf] using h⟩, rfl⟩

theorem nodup_usedPairs_snd (freq : List Nat) : ((usedPairs freq).map Prod.snd).Nodup := by
  have hall : (freq.zipIdx.map Prod.snd).Nodup := by
    rw [List.zipIdx_map_snd]
    exact List.nodup_range'
  exact hall.sublist (List.filter_sublist.map _)

theorem length_usedPairs (freq : List Nat) : (usedPairs freq).length = usedCount freq := by
  have hcount := List.countP_map (p := fun f : Nat => decide (0 < f)) (f := Prod.fst) (l := freq.zipIdx)
  rw [List.zipIdx_map_fst] at hcount
  rw [usedPairs, ← List.countP_eq_length_filter, usedCount, hcount]
  rfl

theorem perm_huffLeaves (freq : List Nat) :
    (huffLeaves freq).Perm ((usedPairs freq).map fun p => (⟨p.1, [p.2]⟩ : HuffItem)) :=
  List.perm_insertionSort _ _

theorem length_huffLeaves (freq : List Nat) : (huffLeaves freq).length = usedCount freq := by
  rw [(perm_huffLeaves freq).length_eq, List.length_map, length_usedPairs]

theorem itemSyms_huffLeaves (freq : List Nat) : (itemSyms (huffLeaves freq)).Perm ((usedPairs freq).map Prod.snd) := by
  refine ((perm_huffLeaves freq).flatMap_right _).trans (List.Perm.of_eq ?_)
  simp [List.flatMap_map, ← List.map_eq_flatMap]

theorem mem_itemSyms_huffLeaves {freq : List Nat} {i : Nat} : i ∈ itemSyms (huffLeaves freq) ↔ 0 < freq.getD i 0 :=
  (itemSyms_huffLeaves freq).mem_iff.trans mem_usedPairs_snd

theorem leavesOk_huffLeaves (freq : List Nat) : LeavesOk (huffLeaves freq) where
  sorted := by
    have htotal : Std.Total HuffItem.le := ⟨fun a b => Nat.le_total a.w b.w⟩
    have htrans : IsTrans HuffItem HuffItem.le := ⟨fun _ _ _ => Nat.le_trans⟩
    exact List.pairwise_insertionSort _ _
  single a ha := by
    obtain ⟨p, -, rfl⟩ := List.mem_map.mp ((perm_huffLeaves freq).mem_iff.mp ha)
    exact ⟨p.2, rfl⟩
  nodup := (itemSyms_huffLeaves freq).nodup_iff.mpr (nodup_usedPairs_snd freq)

/-- R132 and R136 for two or more used symbols, as a fact about the lengths by index. -/
def LengthsMeetContract (freq : List Nat) (L : Nat) (lens : List Nat) : Prop :=
  lens.length = freq.length ∧ (∀ i, i < freq.length → (lens.getD i 0 = 0 ↔ freq.getD i 0 = 0)) ∧ (∀ l ∈ lens, l ≤ L) ∧
    kraftSum L lens = 2 ^ L

/-- A symbol without a code takes up the whole Kraft sum, and leaves nothing to the others. -/
theorem count_pos_of_itemKraft {leaves items : List HuffItem} {L i : Nat} (hleaves : LeavesOk leaves) (hm : 2 ≤ leaves.length)
    (hkraft : itemKraft leaves items L = 2 ^ L) (hi : i ∈ itemSyms leaves) : 0 < (itemSyms items).count i := by
  by_contra hzero
  have hsplit := List.sum_map_erase (fun i => 2 ^ (L - (itemSyms items).count i)) hi
  have hothers := List.length_le_sum_of_one_le
    (((itemSyms leaves).erase i).map fun i => 2 ^ (L - (itemSyms items).count i))
    (List.forall_mem_map.mpr fun j _ => Nat.one_le_two_pow)
  rw [List.length_map, List.length_erase_of_mem hi, length_itemSyms hleaves.single] at hothers
  rw [Nat.eq_zero_of_not_pos hzero, Nat.sub_zero] at hsplit
  have htotal := hsplit.trans hkraft
  omega

/-- Symbols whose counts are positive for the used ones alone: the Kraft sum of the counts by index. -/
theorem kraftSum_counts {freq : List Nat} {items : List HuffItem} {L : Nat}
    (hpos : ∀ i, 0 < (itemSyms items).count i ↔ 0 < freq.getD i 0) :
    kraftSum L ((List.range freq.length).map fun i => (itemSyms items).count i) = itemKraft (huffLeaves freq) items L := by
  have hperm : ((List.range freq.length).filter fun i => 0 < (itemSyms items).count i).Perm (itemSyms (huffLeaves freq)) := by
    rw [List.perm_ext_iff_of_nodup (List.nodup_range.filter _) (leavesOk_huffLeaves freq).nodup]
    intro i
    rw [mem_itemSyms_huffLeaves, List.mem_filter, List.mem_range, decide_eq_true_eq, hpos]
    refine and_iff_right_of_imp fun h => ?_
    by_contra hge
    rw [List.getD_eq_default _ _ (Nat.le_of_not_lt hge)] at h
    exact absurd h (Nat.lt_irrefl 0)
  rw [kraftSum, itemKraft, List.filter_map, List.map_map]
  exact (hperm.map _).sum_eq

theorem hufflenRef_of_two_le {freq : List Nat} (L : Nat) (h : 2 ≤ usedCount freq) :
    hufflenRef freq L = (List.range freq.length).map fun i =>
      (itemSyms ((huffRounds (huffLeaves freq) (L - 1)).take (2 * usedCount freq - 2))).count i :=
  if_neg (by omega)

/-- The 2m - 2 items taken from the last row leave exactly Kraft equality, which in turn leaves no used symbol without a code. -/
theorem hufflenRef_meets {freq : List Nat} {L : Nat} (hm : 2 ≤ usedCount freq) (hcap : usedCount freq ≤ 2 ^ L) :
    LengthsMeetContract freq L (hufflenRef freq L) := by
  obtain ⟨k, rfl⟩ : ∃ k, L = k + 1 := Nat.exists_eq_succ_of_ne_zero (by rintro rfl; omega)
  have hleaves := leavesOk_huffLeaves freq
  have hfits := prefixFits_huffRounds hleaves k (2 * usedCount freq - 2)
  have hlong : 2 * usedCount freq - 2 ≤ (huffRounds (huffLeaves freq) k).length := by
    have hle := le_length_huffRounds (leaves := huffLeaves freq) k
    have hlt : (usedCount freq - 1) / 2 ^ k < 2 := Nat.div_lt_of_lt_mul (by rw [← pow_succ]; omega)
    rw [length_huffLeaves] at hle
    omega
  rw [hufflenRef_of_two_le (k + 1) hm, Nat.add_sub_cancel]
  generalize hitems : (huffRounds (huffLeaves freq) k).take (2 * usedCount freq - 2) = items at hfits
  have hlen : items.length = 2 * usedCount freq - 2 := hitems ▸ List.length_take_of_le hlong
  have hkraft : itemKraft (huffLeaves freq) items (k + 1) = 2 ^ (k + 1) := by
    have hk := hfits.kraft
    rw [hlen, length_huffLeaves, Nat.sub_mul] at hk
    have hle : 2 * 2 ^ (k + 1) ≤ 2 * usedCount freq * 2 ^ (k + 1) := Nat.mul_le_mul_right _ (by omega)
    omega
  have hpos : ∀ i, 0 < (itemSyms items).count i ↔ 0 < freq.getD i 0 := fun i => by
    rw [← mem_itemSyms_huffLeaves]
    refine ⟨fun h => ?_, count_pos_of_itemKraft hleaves (by rwa [length_huffLeaves]) hkraft⟩
    obtain ⟨a, -, ha, hsyms⟩ := hfits.leaf i (List.count_pos_iff.mp h)
    exact List.mem_flatMap.mpr ⟨a, ha, by simp [hsyms]⟩
  refine ⟨by simp, fun i hi => ?_, ?_, (kraftSum_counts hpos).trans hkraft⟩
  · have hget : ((List.range freq.length).map fun i => (itemSyms items).count i).getD i 0 = (itemSyms items).count i := by
      simp [List.getD, hi]
    have hused := hpos i
    rw [hget]
    omega
  · exact List.forall_mem_map.mpr fun i _ => hfits.count_le i

/-! ### HUFFLEN, whatever the table of choices (R131 to R138) -/

theorem huffValid_meets {freq lens : List Nat} {L : Nat} (h : huffValid freq L lens = true) :
    LengthsMeetContract freq L lens := by
  simp only [huffValid, Bool.and_eq_true, decide_eq_true_eq, List.all_eq_true] at h
  obtain ⟨⟨hlen, hall⟩, hkraft⟩ := h
  have hat : ∀ i (hi : i < freq.length) (hi' : i < lens.length), (freq[i] = 0 ↔ lens[i] = 0) ∧ lens[i] ≤ L :=
    fun i hi hi' => hall (freq[i], lens[i]) (List.mem_iff_getElem.mpr ⟨i, by simp [hi, hi'], by simp⟩)
  refine ⟨hlen, fun i hi => ?_, fun l hl => ?_, hkraft⟩
  · rw [List.getD_eq_getElem _ _ hi, List.getD_eq_getElem _ _ (hlen ▸ hi)]
    exact (hat i hi (hlen ▸ hi)).1.symm
  · obtain ⟨i, hi, rfl⟩ := List.mem_iff_getElem.mp hl
    exact (hat i (hlen ▸ hi) hi).2

/-- What HUFFLEN can answer: the lengths of HUFFLEN_REF, or with two or more used symbols a choice that is valid. -/
theorem hufflen_cases (choices : List HuffChoice) (freq : List Nat) (L : Nat) :
    hufflen choices freq L = hufflenRef freq L ∨
      2 ≤ usedCount freq ∧ huffValid freq L (hufflen choices freq L) = true := by
  unfold hufflen
  split_ifs with hm
  · exact .inl rfl
  · split
    · next c hc =>
      have hadm := List.find?_some hc
      simp only [huffAdmissible, Bool.and_eq_true] at hadm
      obtain ⟨-, hvalid, -⟩ := hadm
      exact .inr ⟨by omega, hvalid⟩
    · exact .inl rfl

theorem hufflen_of_usedCount_le_one (choices : List HuffChoice) {freq : List Nat} (L : Nat) (h : usedCount freq ≤ 1) :
    hufflen choices freq L = freq.map fun f => if f = 0 then 0 else 1 := by
  rcases hufflen_cases choices freq L with heq | ⟨hm, -⟩
  · rw [heq, hufflenRef, if_pos h]
    refine List.map_congr_left fun f _ => ?_
    rcases Nat.eq_zero_or_pos f with rfl | hf
    · rfl
    · rw [if_pos hf, if_neg hf.ne']
  · omega

/-- Settles O24: a valid choice meets the contract by its test, HUFFLEN_REF by the Kraft sum that package-merge keeps row by row. -/
theorem hufflenMeetsContract : Obligations.HufflenMeetsContract := by
  intro choices freq L
  refine ⟨hufflen_of_usedCount_le_one choices L, fun hm hcap => ?_⟩
  rcases hufflen_cases choices freq L with heq | ⟨-, hvalid⟩
  · rw [heq]
    exact hufflenRef_meets hm hcap
  · exact huffValid_meets hvalid

/-! ### CANON under Kraft's inequality (R140, R141, R146) -/

theorem kraftSum_cons (L l : Nat) (lens : List Nat) :
    kraftSum L (l :: lens) = (if l = 0 then 0 else 2 ^ (L - l)) + kraftSum L lens := by
  rcases Nat.eq_zero_or_pos l with rfl | hl
  · simp [kraftSum]
  · simp [kraftSum, hl, hl.ne']

/-- The symbols of one length more add their number times their summand. -/
theorem kraftSum_filter_succ (L l : Nat) (lens : List Nat) :
    kraftSum L (lens.filter (· ≤ l + 1)) = kraftSum L (lens.filter (· ≤ l)) + lens.count (l + 1) * 2 ^ (L - (l + 1)) := by
  induction lens with
  | nil => simp [kraftSum]
  | cons x lens ih =>
    rcases Nat.lt_trichotomy x (l + 1) with hlt | rfl | hgt
    · rw [List.filter_cons_of_pos (by simpa using hlt.le), List.filter_cons_of_pos (by simpa using Nat.le_of_lt_succ hlt),
        List.count_cons_of_ne hlt.ne, kraftSum_cons, kraftSum_cons, ih, Nat.add_assoc]
    · rw [List.filter_cons_of_pos (by simp), List.filter_cons_of_neg (by simp), List.count_cons_self, kraftSum_cons, ih,
        if_neg (Nat.succ_ne_zero l)]
      ring
    · rw [List.filter_cons_of_neg (by simpa using hgt), List.filter_cons_of_neg (by simp; omega),
        List.count_cons_of_ne hgt.ne', ih]

/-- The codes up to those of length l, extended to L bits, take up what the Kraft sum of the symbols up to that length says. -/
theorem firstCode_eq_kraftSum (lens : List Nat) {L l : Nat} (h : l ≤ L) :
    (firstCode lens l + lengthCount lens l) * 2 ^ (L - l) = kraftSum L (lens.filter (· ≤ l)) := by
  induction l with
  | zero =>
    have hnone : kraftSum L (lens.filter (· ≤ 0)) = 0 := by
      rw [kraftSum, List.filter_filter, List.filter_eq_nil_iff.mpr (fun x _ => by simp; omega)]
      rfl
    rw [hnone]
    simp [firstCode, lengthCount]
  | succ l ih =>
    have hpow : 2 ^ (L - l) = 2 * 2 ^ (L - (l + 1)) := by
      rw [← pow_succ', show L - (l + 1) + 1 = L - l by omega]
    have hcount : lengthCount lens (l + 1) = lens.count (l + 1) := if_neg (Nat.succ_ne_zero l)
    rw [kraftSum_filter_succ, ← ih (Nat.le_of_succ_le h), firstCode_succ, hcount, hpow]
    ring

theorem kraftSum_filter_le (L : Nat) (lens : List Nat) (p : Nat → Bool) : kraftSum L (lens.filter p) ≤ kraftSum L lens :=
  (((List.filter_sublist (p := p)).filter _).map _).sum_le_sum (by simp)

/-- The codes of each length are below its power of two. -/
theorem firstCode_add_lengthCount_le {lens : List Nat} {L l : Nat} (hk : kraftSum L lens ≤ 2 ^ L) (h : l ≤ L) :
    firstCode lens l + lengthCount lens l ≤ 2 ^ l := by
  have hle : (firstCode lens l + lengthCount lens l) * 2 ^ (L - l) ≤ 2 ^ l * 2 ^ (L - l) := by
    rw [firstCode_eq_kraftSum lens h, ← pow_add, Nat.add_sub_cancel' h]
    exact (kraftSum_filter_le L lens _).trans hk
  exact Nat.le_of_mul_le_mul_right hle (Nat.two_pow_pos _)

theorem canonicalCode_of_unused {lens : List Nat} {i : Nat} (h : lens.getD i 0 = 0) : canonicalCode lens i = 0 :=
  if_pos h

theorem getD_le_of_forall_mem {l : List Nat} {m i : Nat} (h : ∀ x ∈ l, x ≤ m) (hi : i < l.length) : l.getD i 0 ≤ m := by
  rw [List.getD_eq_getElem _ _ hi]
  exact h _ (List.getElem_mem hi)

theorem canonicalCode_lt_two_pow {lens : List Nat} {L i : Nat} (hcap : ∀ l ∈ lens, l ≤ L) (hk : kraftSum L lens ≤ 2 ^ L)
    (hi : i < lens.length) : canonicalCode lens i < 2 ^ lens.getD i 0 := by
  rcases Nat.eq_zero_or_pos (lens.getD i 0) with h0 | hpos
  · rw [canonicalCode_of_unused h0]
    exact Nat.two_pow_pos _
  · exact (canonicalCode_lt hi hpos).trans_le (firstCode_add_lengthCount_le hk (getD_le_of_forall_mem hcap hi))

theorem assignCodes_unused (next lens : List Nat) :
    assignCodes next (0 :: lens) = (0 :: (assignCodes next lens).1, (assignCodes next lens).2) := rfl

theorem assignCodes_used (next lens : List Nat) {l : Nat} (h : l ≠ 0) :
    assignCodes next (l :: lens) =
      (next.getD l 0 :: (assignCodes (next.set l (next.getD l 0 + 1)) lens).1,
        (assignCodes (next.set l (next.getD l 0 + 1)) lens).2) :=
  if_neg h

theorem length_assignCodes_snd (next lens : List Nat) : (assignCodes next lens).2.length = next.length := by
  induction lens generalizing next with
  | nil => rfl
  | cons l lens ih =>
    rcases eq_or_ne l 0 with rfl | h0
    · rw [assignCodes_unused, ih]
    · rw [assignCodes_used next lens h0, ih, List.length_set]

/-- The code of symbol i when the codes of each length rise from what NEXT holds. -/
def codeFrom (next lens : List Nat) (i : Nat) : Nat :=
  if lens.getD i 0 = 0 then 0 else next.getD (lens.getD i 0) 0 + (lens.take i).count (lens.getD i 0)

theorem codeFrom_cons_succ_of_unused (next lens : List Nat) (i : Nat) :
    codeFrom next (0 :: lens) (i + 1) = codeFrom next lens i := by
  simp only [codeFrom, List.getD_cons_succ, List.take_succ_cons]
  split_ifs with h
  · rfl
  · rw [List.count_cons_of_ne (Ne.symm h)]

theorem codeFrom_cons_succ_of_used {next : List Nat} {l : Nat} (lens : List Nat) (i : Nat) (hl : l < next.length) :
    codeFrom next (l :: lens) (i + 1) = codeFrom (next.set l (next.getD l 0 + 1)) lens i := by
  simp only [codeFrom, List.getD_cons_succ, List.take_succ_cons]
  generalize lens.getD i 0 = k
  rcases eq_or_ne l k with rfl | hne
  · have hset : (next.set l (next.getD l 0 + 1)).getD l 0 = next.getD l 0 + 1 := by simp [List.getD, hl]
    rw [hset, List.count_cons_self, Nat.add_assoc, Nat.add_comm 1]
  · have hset : (next.set l (next.getD l 0 + 1)).getD k 0 = next.getD k 0 := by simp [List.getD, List.getElem?_set_ne hne]
    rw [hset, List.count_cons_of_ne hne]

/-- The assignment in closed form. -/
theorem assignCodes_fst {next lens : List Nat} (h : ∀ l ∈ lens, l < next.length) :
    (assignCodes next lens).1 = (List.range lens.length).map (codeFrom next lens) := by
  induction lens generalizing next with
  | nil => rfl
  | cons l lens ih =>
    obtain ⟨hl, hrest⟩ := List.forall_mem_cons.mp h
    rw [List.length_cons, List.range_succ_eq_map, List.map_cons, List.map_map]
    rcases eq_or_ne l 0 with rfl | h0
    · rw [assignCodes_unused, ih hrest]
      exact congrArg₂ _ rfl (List.map_congr_left fun i _ => (codeFrom_cons_succ_of_unused next lens i).symm)
    · rw [assignCodes_used next lens h0, ih (by simpa using hrest)]
      refine congrArg₂ _ ?_ (List.map_congr_left fun i _ => (codeFrom_cons_succ_of_used lens i hl).symm)
      simp [codeFrom, h0]

theorem canonResult_codes {lens : List Nat} {L : Nat} (hcap : ∀ l ∈ lens, l ≤ L) :
    (canonResult lens L).codes = (List.range lens.length).map (canonicalCode lens) := by
  refine (assignCodes_fst (by simpa [Nat.lt_succ_iff] using hcap)).trans (List.map_congr_left fun i hi => ?_)
  have hle : lens.getD i 0 < L + 1 := Nat.lt_succ_of_le (getD_le_of_forall_mem hcap (List.mem_range.mp hi))
  have hfirst : ((List.range (L + 1)).map (firstCode lens)).getD (lens.getD i 0) 0 = firstCode lens (lens.getD i 0) := by
    rw [List.getD_eq_getElem _ _ (by simpa using hle)]
    simp
  rw [codeFrom, canonicalCode, hfirst]

/-- Under Kraft's inequality the test of R146 passes. -/
theorem canon_eq_some {lens : List Nat} {L : Nat} (hcap : ∀ l ∈ lens, l ≤ L) (hk : kraftSum L lens ≤ 2 ^ L) :
    canon lens L = some (canonResult lens L) := by
  refine if_pos (List.all_eq_true.mpr fun p hp => ?_)
  obtain ⟨i, hi, rfl⟩ := List.mem_iff_getElem.mp hp
  have hlen : i < lens.length := by simp only [List.length_zip] at hi; omega
  have hlt := canonicalCode_lt_two_pow hcap hk hlen
  rw [List.getD_eq_getElem _ _ hlen] at hlt
  simpa [canonResult_codes hcap] using hlt

/-- Settles O26: the Kraft sum of the symbols up to a length counts the codes taken up to it. -/
theorem canonFitsUnderKraft : Obligations.CanonFitsUnderKraft := fun _ _ hcap hk =>
  ⟨_, canon_eq_some hcap hk, canonResult_codes hcap, fun _ hi => canonicalCode_lt_two_pow hcap hk hi⟩

/-! ### The tables of the AECS in use (R143) -/

theorem State.wf_hist {s : State} (h : s.memoryInv) : s.cur.histLL.wf = true ∧ s.cur.histD.wf = true := by
  obtain ⟨-, -, haecs⟩ := (s.memoryInv_iff).mp h
  obtain ⟨hll, hd, -⟩ := (Aecs.canonical_iff _).mp (haecs s.tgl)
  exact ⟨hll, hd⟩

theorem Memory.read_setEntry_outside (m : Memory) {i a : Nat} (v : BitVec 32) (h : a < 4 * i ∨ 4 * i + 4 ≤ a) :
    (m.setEntry i v).read a = m.read a :=
  m.read_writeBytes_outside _ _ _ (by rwa [length_bytesLe])

theorem Memory.read_setEntries_outside (m : Memory) {i a : Nat} (vs : List (BitVec 32))
    (h : a < 4 * i ∨ 4 * (i + vs.length) ≤ a) : (m.setEntries i vs).read a = m.read a := by
  induction vs generalizing m i with
  | nil => rfl
  | cons v vs ih =>
    rw [List.length_cons] at h
    rw [Memory.setEntries, ih _ (by omega), m.read_setEntry_outside v (by omega)]

/-- Settles O31: below 286 the symbol in hand has its entry in HIST_LL, below 316 in HIST_D. -/
theorem packedEntryWritesItsSymbol : Obligations.PackedEntryWritesItsSymbol := by
  intro s len code v i
  have hcurLL : ∀ m c, { s.setCur { s.cur with histLL := m } with ci := c }.cur = { s.cur with histLL := m } :=
    fun _ _ => s.cur_setCur _
  have hcurD : ∀ m c, { s.setCur { s.cur with histD := m } with ci := c }.cur = { s.cur with histD := m } :=
    fun _ _ => s.cur_setCur _
  refine ⟨fun hi => ⟨_, congrArg Host.Outcome.next (if_pos hi), ?_⟩,
    fun hlo hhi => ⟨_, congrArg Host.Outcome.next ((if_neg (Nat.not_lt.mpr hlo)).trans (if_pos hhi)), ?_⟩,
    fun hi => congrArg Host.Outcome.next ((if_neg (show ¬i < 286 by omega)).trans (if_neg (Nat.not_lt.mpr hi)))⟩
  · rw [hcurLL]
    exact ⟨rfl, fun h => Memory.entry_setEntry_same _ _ _ (State.wf_hist h).1, fun a => Memory.read_setEntry_outside _ _⟩
  · rw [hcurD]
    exact ⟨rfl, fun h => Memory.entry_setEntry_same _ _ _ (State.wf_hist h).2, fun a => Memory.read_setEntry_outside _ _⟩

/-! ### The calls of HUFFLEN (R144, R148) -/

/-- An alphabet of at most 2^L symbols is never infeasible. -/
theorem huffInfeasible_eq_false {freq : List Nat} {L : Nat} (h : freq.length ≤ 2 ^ L) : huffInfeasible freq L = false :=
  decide_eq_false (Nat.not_lt.mpr (List.countP_le_length.trans h))

theorem length_freqLL (s : State) : s.freqLL.length = 286 := by simp [State.freqLL, Memory.entries]

theorem length_freqD (s : State) : s.freqD.length = 30 := by simp [State.freqD, Memory.entries]

@[simp] theorem length_arrayNat {w : Nat} (n : Nat) (l : List (BitVec w)) : (arrayNat n l).length = n := by simp [arrayNat]

theorem withPhantom_eq (lens : List Nat) : withPhantom lens = if ∀ x ∈ lens, x = 0 then lens.set 0 1 else lens := by
  simp [withPhantom]

/-- Settles O23: with 286, 30 and 19 symbols the test of R135 never fires. -/
theorem codeLengthMicroOperations : Obligations.CodeLengthMicroOperations := by
  intro s phantom
  have hll := huffInfeasible_eq_false (L := 15) ((length_freqLL s).trans_le (by decide))
  have hd := huffInfeasible_eq_false (L := 15) ((length_freqD s).trans_le (by decide))
  have hcl := huffInfeasible_eq_false (L := 7) ((length_arrayNat 19 s.work.clFreq).trans_le (by decide))
  have hphantom : phantom (hufflen s.par.huffChoices s.freqD 15) = withPhantom (hufflen s.par.huffChoices s.freqD 15) :=
    (withPhantom_eq _).symm
  rw [hphantom]
  exact ⟨congrArg Host.Outcome.next (if_neg (Bool.eq_false_iff.mp hll)),
    congrArg Host.Outcome.next (if_neg (Bool.eq_false_iff.mp hd)),
    congrArg Host.Outcome.next (if_neg (Bool.eq_false_iff.mp hcl))⟩

/-! ### The CANON micro-operations (R142, R143, R149) -/

theorem arrayNat_le {w n m : Nat} (a : List (BitVec w)) (h : 2 ^ w = m + 1) : ∀ l ∈ arrayNat n a, l ≤ m :=
  List.forall_mem_map.mpr fun v _ => Nat.le_of_lt_succ (v.isLt.trans_eq h)

theorem getD_toArray {w : Nat} {l : List Nat} {i : Nat} (h : l.getD i 0 < 2 ^ w) :
    ((toArray w l).getD i 0).toNat = l.getD i 0 := by
  have hget : (toArray w l).getD i 0 = BitVec.ofNat w (l.getD i 0) := List.getD_map l 0 (BitVec.ofNat w)
  rw [hget, BitVec.toNat_ofNat, Nat.mod_eq_of_lt h]

theorem getD_writeFront_of_length_le {w n i : Nat} (old : List (BitVec w)) {new : List (BitVec w)} (h : new.length ≤ i)
    (hi : i < n) : (writeFront n old new).getD i 0 = old.getD i 0 := by
  have hdrop : new.length + (i - new.length) = i := Nat.add_sub_cancel' h
  rw [writeFront, List.getD_append_right _ _ _ _ h, List.getD_eq_getElem?_getD, List.getElem?_drop, hdrop,
    ← List.getD_eq_getElem?_getD, getD_padded n i old hi]

theorem rev_lt (v n : Nat) : rev v n < 2 ^ n := by
  induction n generalizing v with
  | zero => simp [rev]
  | succ n ih =>
    have hbit : v % 2 * 2 ^ n ≤ 1 * 2 ^ n := Nat.mul_le_mul_right _ (by omega)
    have htail := ih (v / 2)
    rw [rev, pow_succ]
    omega

section
variable {lens : List Nat} {L : Nat} (hcap : ∀ l ∈ lens, l ≤ L)
include hcap

theorem length_packedEntries : (packedEntries (canonResult lens L).codes lens).length = lens.length := by
  simp [packedEntries, canonResult_codes hcap]

theorem getD_packedEntries {i : Nat} (hi : i < lens.length) :
    (packedEntries (canonResult lens L).codes lens).getD i 0 = packedEntry (lens.getD i 0) (canonicalCode lens i) := by
  simp [packedEntries, canonResult_codes hcap, hi, List.getD]

theorem getD_reversedCodes {i : Nat} (hi : i < lens.length) :
    (reversedCodes (canonResult lens L).codes lens).getD i 0 = rev (canonicalCode lens i) (lens.getD i 0) := by
  simp [reversedCodes, canonResult_codes hcap, hi, List.getD]

end

/-- A table with its counters replaced by the packed codes that CANON gives with the cap 15 (R143). -/
def packedTable (lens : List Nat) (m : Memory) : Memory := m.setEntries 0 (packedEntries (canonResult lens 15).codes lens)

theorem entry_packedTable {m : Memory} {lens : List Nat} (hm : m.wf = true) (hcap : ∀ l ∈ lens, l ≤ 15)
    (hk : kraftSum 15 lens ≤ 2 ^ 15) {i : Nat} (hi : i < lens.length) :
    ((packedTable lens m).entry i).toNat = lens.getD i 0 * 2 ^ 15 + canonicalCode lens i := by
  have hlen := getD_le_of_forall_mem hcap hi
  have hcode : canonicalCode lens i < 2 ^ 15 :=
    (canonicalCode_lt_two_pow hcap hk hi).trans_le (Nat.pow_le_pow_right (by decide) hlen)
  rw [packedTable, m.entry_setEntries 0 i _ hm, if_pos ⟨Nat.zero_le i, by rwa [length_packedEntries hcap, Nat.zero_add]⟩,
    Nat.sub_zero, getD_packedEntries hcap hi, packedEntry_toNat hlen hcode]

theorem read_packedTable_above {lens : List Nat} (m : Memory) (hcap : ∀ l ∈ lens, l ≤ 15) {a : Nat}
    (h : 4 * lens.length ≤ a) : (packedTable lens m).read a = m.read a :=
  m.read_setEntries_outside _ (.inr (by rwa [length_packedEntries hcap, Nat.zero_add]))

/-- CANON with cap L leaves COUNTL and NEXT above L as they were. -/
theorem withCanon_above (k : Work) (lens : List Nat) {L l : Nat} (h : L < l) (hl : l < 16) :
    (k.withCanon (canonResult lens L)).countl.getD l 0 = k.countl.getD l 0 ∧
      (k.withCanon (canonResult lens L)).next.getD l 0 = k.next.getD l 0 := by
  refine ⟨getD_writeFront_of_length_le _ ?_ hl, getD_writeFront_of_length_le _ ?_ hl⟩
  · simpa [toArray, canonResult] using h
  · simpa [toArray, canonResult, length_assignCodes_snd] using h

/-- S3.CANON_LL that neither of its faults stops: the table it leaves, and what else it writes. -/
theorem exec_s3CanonLl_of_kraft {s : State} (hconv : s.conv = false) (hk : kraftSum 15 (arrayNat 286 s.work.llLen) ≤ 2 ^ 15) :
    ∃ t, exec .s3CanonLl s = .next t ∧ t.cur.histLL = packedTable (arrayNat 286 s.work.llLen) s.cur.histLL ∧
      t = { s.setCur { s.cur with histLL := t.cur.histLL } with
            work := { s.work with countl := t.work.countl, next := t.work.next }, ci := t.ci, upc := Upc.s3CanonD } := by
  obtain ⟨t, ht⟩ : ∃ t : State, t =
    { s.setCur { s.cur with histLL := packedTable (arrayNat 286 s.work.llLen) s.cur.histLL } with
      work := s.work.withCanon (canonResult (arrayNat 286 s.work.llLen) 15), ci := 286, upc := Upc.s3CanonD } := ⟨_, rfl⟩
  have hexec : exec .s3CanonLl s = .next t := by
    show execS3CanonLl s = _
    simp only [execS3CanonLl, hconv, canon_eq_some (arrayNat_le s.work.llLen rfl) hk, ht]
    rfl
  have hhist : t.cur.histLL = packedTable (arrayNat 286 s.work.llLen) s.cur.histLL := by
    rw [ht]
    exact congrArg Aecs.histLL (s.cur_setCur _)
  refine ⟨t, hexec, hhist, ?_⟩
  rw [hhist]
  subst ht
  rfl

/-- S3.CANON_D that its fault does not stop: the table it leaves, and what else it writes. -/
theorem exec_s3CanonD_of_kraft {s : State} (hk : kraftSum 15 (arrayNat 30 s.work.dLen) ≤ 2 ^ 15) :
    ∃ t, exec .s3CanonD s = .next t ∧ t.cur.histD = packedTable (arrayNat 30 s.work.dLen) s.cur.histD ∧
      t = { s.setCur { s.cur with histD := t.cur.histD } with
            work := { s.work with countl := t.work.countl, next := t.work.next }, ci := t.ci, conv := true
            upc := Upc.s4Tokenize } := by
  obtain ⟨t, ht⟩ : ∃ t : State, t =
    { s.setCur { s.cur with histD := packedTable (arrayNat 30 s.work.dLen) s.cur.histD } with
      work := s.work.withCanon (canonResult (arrayNat 30 s.work.dLen) 15), ci := 316, conv := true, upc := Upc.s4Tokenize } :=
    ⟨_, rfl⟩
  have hexec : exec .s3CanonD s = .next t := by
    show execS3CanonD s = _
    simp only [execS3CanonD, canon_eq_some (arrayNat_le s.work.dLen rfl) hk, ht]
    rfl
  have hhist : t.cur.histD = packedTable (arrayNat 30 s.work.dLen) s.cur.histD := by
    rw [ht]
    exact congrArg Aecs.histD (s.cur_setCur _)
  refine ⟨t, hexec, hhist, ?_⟩
  rw [hhist]
  subst ht
  rfl

theorem exec_s4CanonCl_of_kraft {s : State} (hk : kraftSum 7 (arrayNat 19 s.work.clLen) ≤ 2 ^ 7) :
    exec .s4CanonCl s =
      .next
        { s with
          work :=
            { s.work.withCanon (canonResult (arrayNat 19 s.work.clLen) 7) with
              clRev :=
                toArray 7 (reversedCodes (canonResult (arrayNat 19 s.work.clLen) 7).codes (arrayNat 19 s.work.clLen))
              nclen := BitVec.ofNat 5 (nclenOf (arrayNat 19 s.work.clLen)) }
          upc := Upc.s4Prefix } := by
  show execS4CanonCl s = _
  simp only [execS4CanonCl, canon_eq_some (arrayNat_le s.work.clLen rfl) hk]

/-- Settles O28: CANON succeeds, and its codes fit the entries and CLREV because they fit their lengths. -/
theorem canonicalTables : Obligations.CanonicalTables := by
  intro s hmem
  refine ⟨fun hconv hk => ?_, fun hk => ?_, fun hk => ?_⟩
  · obtain ⟨t, ht, hhist, hframe⟩ := exec_s3CanonLl_of_kraft hconv hk
    have hcap := arrayNat_le (n := 286) s.work.llLen rfl
    have hlen := length_arrayNat 286 s.work.llLen
    refine ⟨t, ht, hframe, ?_⟩
    rw [hhist]
    exact ⟨fun i hi => entry_packedTable (State.wf_hist hmem).1 hcap hk (hi.trans_eq hlen.symm),
      fun a ha => read_packedTable_above _ hcap (by rwa [hlen])⟩
  · obtain ⟨t, ht, hhist, hframe⟩ := exec_s3CanonD_of_kraft hk
    have hcap := arrayNat_le (n := 30) s.work.dLen rfl
    have hlen := length_arrayNat 30 s.work.dLen
    refine ⟨t, ht, hframe, ?_⟩
    rw [hhist]
    exact ⟨fun i hi => entry_packedTable (State.wf_hist hmem).2 hcap hk (hi.trans_eq hlen.symm),
      fun a ha => read_packedTable_above _ hcap (by rwa [hlen])⟩
  · refine ⟨_, exec_s4CanonCl_of_kraft hk, rfl, fun l hlo hhi => withCanon_above s.work _ hlo hhi, fun i hi => ?_⟩
    have hcap := arrayNat_le (n := 19) s.work.clLen rfl
    have hi' := hi.trans_eq (length_arrayNat 19 s.work.clLen).symm
    rw [← getD_reversedCodes hcap hi']
    refine getD_toArray ?_
    rw [getD_reversedCodes hcap hi']
    exact (rev_lt _ _).trans_le (Nat.pow_le_pow_right (by decide) (getD_le_of_forall_mem hcap hi'))

end Sys2Proof.Machine

/-! Proofs of the statements about the header bit encoder (spec/41_header_bit_encoder.md). -/

namespace Sys2Proof.Machine

/-! ### The counts (R182, R187) -/

theorem lastUsed_le_length (l : List Nat) : lastUsed l ≤ l.length := by
  induction l with
  | nil => exact Nat.le_refl 0
  | cons v vs ih =>
    simp only [lastUsed, List.length_cons]
    split_ifs <;> omega

theorem getD_of_lastUsed_le {l : List Nat} {i : Nat} (h : lastUsed l ≤ i) : l.getD i 0 = 0 := by
  induction l generalizing i with
  | nil => rfl
  | cons v vs ih =>
    simp only [lastUsed] at h
    cases i with
    | zero =>
      split_ifs at h with _ hv
      · exact hv
      all_goals omega
    | succ i => exact ih (by split_ifs at h <;> omega)

theorem getD_lastUsed_sub_one_ne {l : List Nat} (h : lastUsed l ≠ 0) : l.getD (lastUsed l - 1) 0 ≠ 0 := by
  induction l with
  | nil => exact absurd rfl h
  | cons v vs ih =>
    by_cases hvs : lastUsed vs = 0
    · have hv : v ≠ 0 := fun hv => h (by simp [lastUsed, hvs, hv])
      simp [lastUsed, hvs, hv]
    · have hpred : lastUsed vs + 1 - 1 = lastUsed vs - 1 + 1 := by omega
      simpa only [lastUsed, hvs, if_false, hpred, List.getD_cons_succ] using ih hvs

/-- A count with a floor is the least one that is not below the floor and reaches every used element. -/
theorem max_lastUsed_minimal (floor : Nat) (l : List Nat) :
    (∀ i, max floor (lastUsed l) ≤ i → l.getD i 0 = 0) ∧
      (max floor (lastUsed l) = floor ∨ l.getD (max floor (lastUsed l) - 1) 0 ≠ 0) := by
  refine ⟨fun i hi => getD_of_lastUsed_le ((Nat.le_max_right _ _).trans hi), ?_⟩
  rcases Nat.le_total (lastUsed l) floor with h | h
  · exact .inl (max_eq_left h)
  · by_cases hz : lastUsed l = 0
    · exact .inl (max_eq_left (hz ▸ Nat.zero_le floor))
    · exact .inr (by rw [max_eq_right h]; exact getD_lastUsed_sub_one_ne hz)

theorem nlitOf_le {ll : List Nat} (h : ll.length = 286) : nlitOf ll ≤ 286 :=
  max_le (by decide) (h ▸ lastUsed_le_length ll)

theorem ndistOf_le {d : List Nat} (h : d.length = 30) : ndistOf d ≤ 30 :=
  max_le (by decide) (h ▸ lastUsed_le_length d)

theorem nclenOf_le (clLen : List Nat) : nclenOf clLen ≤ 19 :=
  max_le (by decide) ((lastUsed_le_length _).trans_eq (List.length_map _))

theorem toNat_nlit (s : State) :
    (BitVec.ofNat 9 (nlitOf (arrayNat 286 s.work.llLen))).toNat = nlitOf (arrayNat 286 s.work.llLen) :=
  Nat.mod_eq_of_lt ((nlitOf_le (length_arrayNat 286 _)).trans_lt (by decide))

theorem toNat_ndist (s : State) :
    (BitVec.ofNat 5 (ndistOf (arrayNat 30 s.work.dLen))).toNat = ndistOf (arrayNat 30 s.work.dLen) :=
  Nat.mod_eq_of_lt ((ndistOf_le (length_arrayNat 30 _)).trans_lt (by decide))

theorem toNat_nclen (clLen : List Nat) : (BitVec.ofNat 5 (nclenOf clLen)).toNat = nclenOf clLen :=
  Nat.mod_eq_of_lt ((nclenOf_le clLen).trans_lt (by decide))

theorem getD_map_scan (clLen : List Nat) {k : Nat} (hk : k < 19) :
    (scan.map fun s => clLen.getD s 0).getD k 0 = clLen.getD (scan.getD k 0) 0 := by
  have hlen : k < scan.length := hk
  simp [List.getD, hlen]

/-- NCLEN against the lengths in their order in the header. -/
theorem nclenOf_minimal (clLen : List Nat) :
    (∀ k, nclenOf clLen ≤ k → k < 19 → clLen.getD (scan.getD k 0) 0 = 0) ∧
      (nclenOf clLen = 4 ∨ clLen.getD (scan.getD (nclenOf clLen - 1) 0) 0 ≠ 0) := by
  obtain ⟨habove, hlast⟩ := max_lastUsed_minimal 4 (scan.map fun s => clLen.getD s 0)
  refine ⟨fun k hk hlt => getD_map_scan clLen hlt ▸ habove k hk, hlast.imp_right fun h => ?_⟩
  have hle := nclenOf_le clLen
  rwa [← getD_map_scan clLen (by omega)]

/-- S4.CANON_CL that its fault does not stop leaves NCLEN. -/
theorem exec_s4CanonCl_nclen {s t : State} (h : exec .s4CanonCl s = .next t) (hf : t.fault = false) :
    t.work.nclen.toNat = nclenOf (arrayNat 19 s.work.clLen) := by
  obtain rfl := Host.Outcome.next.inj h
  split at hf
  · cases hf
  · exact toNat_nclen _

/-- Settles O32: each count is the last used index plus one, unless its floor is above that. -/
theorem countsAreMinimal : Obligations.CountsAreMinimal := by
  refine fun s t => ⟨fun h => ?_, fun h hf => ?_⟩
  · obtain rfl := Host.Outcome.next.inj h
    have hll := max_lastUsed_minimal 257 (arrayNat 286 s.work.llLen)
    have hd := max_lastUsed_minimal 1 (arrayNat 30 s.work.dLen)
    dsimp only
    rw [toNat_nlit, toNat_ndist]
    exact ⟨⟨Nat.le_max_left _ _, nlitOf_le (length_arrayNat 286 _), hll⟩,
      Nat.le_max_left _ _, ndistOf_le (length_arrayNat 30 _), hd⟩
  · rw [exec_s4CanonCl_nclen h hf]
    exact ⟨Nat.le_max_left _ _, nclenOf_le _, nclenOf_minimal _⟩

/-! ### The tokens (R183, R184) -/

/-- A token as R101 has it: a code-length symbol, with extra bits of the width of its symbol. -/
def Token.Legal (t : Token) : Prop :=
  t.sym.toNat ≤ 18 ∧
    t.ebits.toNat = (if t.sym = 16 then 2 else if t.sym = 17 then 3 else if t.sym = 18 then 7 else 0) ∧
    t.extra.toNat < 2 ^ t.ebits.toNat

theorem token_sym {sym : Nat} (extra ebits : Nat) (h : sym < 32) : (token sym extra ebits).sym.toNat = sym :=
  Nat.mod_eq_of_lt h

theorem token_extra {extra : Nat} (sym ebits : Nat) (h : extra < 128) : (token sym extra ebits).extra.toNat = extra :=
  Nat.mod_eq_of_lt h

theorem legal_token_literal {v : Nat} (h : v ≤ 15) : (token v 0 0).Legal := by
  interval_cases v <;> exact ⟨by decide, by decide, by decide⟩

theorem legal_token16 {e : Nat} (h : e < 4) : (token 16 e 2).Legal :=
  ⟨(token_sym _ _ (by decide)).trans_le (by decide), rfl, (token_extra 16 2 (by omega)).trans_lt h⟩

theorem legal_token17 {e : Nat} (h : e < 8) : (token 17 e 3).Legal :=
  ⟨(token_sym _ _ (by decide)).trans_le (by decide), rfl, (token_extra 17 3 (by omega)).trans_lt h⟩

theorem legal_token18 {e : Nat} (h : e < 128) : (token 18 e 7).Legal :=
  ⟨(token_sym _ _ (by decide)).trans_le (by decide), rfl, (token_extra 18 7 h).trans_lt h⟩

/-! What a reader makes of each kind of token. -/

theorem expandTokens_literal {v : Nat} (h : v ≤ 15) (prev : Nat) (ts : List Token) :
    expandTokens prev (token v 0 0 :: ts) = v :: expandTokens v ts := by
  rw [expandTokens, token_sym 0 0 (by omega), if_neg (by omega), if_neg (by omega), if_neg (by omega)]

theorem expandTokens_literals {v : Nat} (h : v ≤ 15) (n : Nat) (ts : List Token) :
    expandTokens v (List.replicate n (token v 0 0) ++ ts) = List.replicate n v ++ expandTokens v ts := by
  induction n with
  | zero => rfl
  | succ n ih => rw [List.replicate_succ, List.cons_append, expandTokens_literal h, ih]; rfl

theorem expandTokens_token16 {e : Nat} (h : e < 4) (prev : Nat) (ts : List Token) :
    expandTokens prev (token 16 e 2 :: ts) = List.replicate (3 + e) prev ++ expandTokens prev ts := by
  rw [expandTokens, token_sym e 2 (by decide), token_extra 16 2 (by omega), if_pos rfl]

theorem expandTokens_token17 {e : Nat} (h : e < 8) (prev : Nat) (ts : List Token) :
    expandTokens prev (token 17 e 3 :: ts) = List.replicate (3 + e) 0 ++ expandTokens 0 ts := by
  rw [expandTokens, token_sym e 3 (by decide), token_extra 17 3 (by omega), if_neg (by decide), if_pos rfl]

theorem expandTokens_token18 {e : Nat} (h : e < 128) (prev : Nat) (ts : List Token) :
    expandTokens prev (token 18 e 7 :: ts) = List.replicate (11 + e) 0 ++ expandTokens 0 ts := by
  rw [expandTokens, token_sym e 7 (by decide), token_extra 18 7 h, if_neg (by decide), if_neg (by decide),
    if_pos rfl]

/-- The tokens of a run of zeros stand for it; an empty run has no token, so a length before it stays the one before. -/
theorem expandTokens_zeroTokens {fuel run : Nat} (prev : Nat) (hfuel : run ≤ fuel) (hprev : run = 0 → prev = 0)
    (ts : List Token) :
    expandTokens prev (zeroTokens fuel run ++ ts) = List.replicate run 0 ++ expandTokens 0 ts := by
  induction fuel generalizing run prev with
  | zero =>
    obtain rfl : run = 0 := Nat.le_zero.mp hfuel
    rw [hprev rfl]; rfl
  | succ fuel ih =>
    rw [zeroTokens]
    split_ifs with h11 h3
    · rw [List.cons_append, expandTokens_token18 (by omega), ih 0 (by omega) (fun _ => rfl), ← List.append_assoc,
        List.replicate_append_replicate, show 11 + (min run 138 - 11) + (run - min run 138) = run by omega]
    · rw [List.singleton_append, expandTokens_token17 (by omega), show 3 + (run - 3) = run by omega]
    · cases run with
      | zero => rw [hprev rfl]; rfl
      | succ run =>
        rw [List.replicate_succ, List.cons_append, expandTokens_literal (Nat.zero_le 15),
          expandTokens_literals (Nat.zero_le 15)]
        rfl

/-- The tokens of the repeats of a value stand for them where the length before is the value. -/
theorem expandTokens_repeatTokens {v fuel run : Nat} (hv : v ≤ 15) (hfuel : run ≤ fuel) (ts : List Token) :
    expandTokens v (repeatTokens v fuel run ++ ts) = List.replicate run v ++ expandTokens v ts := by
  induction fuel generalizing run with
  | zero =>
    obtain rfl : run = 0 := Nat.le_zero.mp hfuel
    rfl
  | succ fuel ih =>
    rw [repeatTokens]
    split_ifs with h3
    · rw [List.cons_append, expandTokens_token16 (by omega), ih (by omega), ← List.append_assoc,
        List.replicate_append_replicate, show 3 + (min run 6 - 3) + (run - min run 6) = run by omega]
    · exact expandTokens_literals hv run ts

theorem expandTokens_runTokens {r : Nat × Nat} (prev : Nat) (hv : r.1 ≤ 15) (hpos : 0 < r.2) (ts : List Token) :
    expandTokens prev (runTokens r ++ ts) = List.replicate r.2 r.1 ++ expandTokens r.1 ts := by
  rw [runTokens]
  split_ifs with hz
  · rw [expandTokens_zeroTokens prev le_rfl (by omega), hz]
  · obtain ⟨n, hn⟩ : ∃ n, r.2 = n + 1 := ⟨r.2 - 1, by omega⟩
    rw [hn, List.cons_append, expandTokens_literal hv, Nat.add_sub_cancel, expandTokens_repeatTokens hv le_rfl]
    rfl

/-- The tokens of runs stand for the runs, whatever length comes before: no run begins with a 16. -/
theorem expandTokens_flatMap_runTokens {runs : List (Nat × Nat)} (prev : Nat) (h : ∀ r ∈ runs, r.1 ≤ 15 ∧ 0 < r.2) :
    expandTokens prev (runs.flatMap runTokens) = runs.flatMap fun r => List.replicate r.2 r.1 := by
  induction runs generalizing prev with
  | nil => rfl
  | cons r rs ih =>
    obtain ⟨⟨hv, hpos⟩, hrs⟩ := List.forall_mem_cons.mp h
    rw [List.flatMap_cons, List.flatMap_cons, expandTokens_runTokens prev hv hpos, ih r.1 hrs]

/-! The tokens themselves. -/

theorem legal_of_mem_zeroTokens {fuel run : Nat} {t : Token} (h : t ∈ zeroTokens fuel run) : t.Legal := by
  induction fuel generalizing run with
  | zero => cases h
  | succ fuel ih =>
    rw [zeroTokens] at h
    split_ifs at h with h11 h3
    · rcases List.mem_cons.mp h with rfl | h
      · exact legal_token18 (by omega)
      · exact ih h
    · exact List.mem_singleton.mp h ▸ legal_token17 (by omega)
    · exact List.eq_of_mem_replicate h ▸ legal_token_literal (Nat.zero_le 15)

theorem legal_of_mem_repeatTokens {v fuel run : Nat} (hv : v ≤ 15) {t : Token} (h : t ∈ repeatTokens v fuel run) :
    t.Legal := by
  induction fuel generalizing run with
  | zero => cases h
  | succ fuel ih =>
    rw [repeatTokens] at h
    split_ifs at h with h3
    · rcases List.mem_cons.mp h with rfl | h
      · exact legal_token16 (by omega)
      · exact ih h
    · exact List.eq_of_mem_replicate h ▸ legal_token_literal hv

theorem legal_of_mem_runTokens {r : Nat × Nat} (hv : r.1 ≤ 15) {t : Token} (h : t ∈ runTokens r) : t.Legal := by
  rw [runTokens] at h
  split_ifs at h
  · exact legal_of_mem_zeroTokens h
  · rcases List.mem_cons.mp h with rfl | h
    · exact legal_token_literal hv
    · exact legal_of_mem_repeatTokens hv h

/-- A run of zeros begins with an 18, a 17 or a 0. -/
theorem head_zeroTokens_ne {fuel run : Nat} {t : Token} (h : t ∈ (zeroTokens fuel run).head?) : t.sym ≠ 16 := by
  cases fuel with
  | zero => cases h
  | succ fuel =>
    rw [zeroTokens] at h
    split_ifs at h
    · cases h
      exact show (18 : BitVec 5) ≠ 16 by decide
    · cases h
      exact show (17 : BitVec 5) ≠ 16 by decide
    · exact List.eq_of_mem_replicate (List.mem_of_mem_head? h) ▸ show (0 : BitVec 5) ≠ 16 by decide

theorem head_runTokens_ne {r : Nat × Nat} (hv : r.1 ≤ 15) {t : Token} (h : t ∈ (runTokens r).head?) : t.sym ≠ 16 := by
  rw [runTokens] at h
  split_ifs at h
  · exact head_zeroTokens_ne h
  · cases h
    intro h16
    have hsym : r.1 % 2 ^ 5 = 16 := congrArg BitVec.toNat h16
    omega

theorem runTokens_ne_nil {r : Nat × Nat} (hpos : 0 < r.2) : runTokens r ≠ [] := by
  obtain ⟨n, hn⟩ : ∃ n, r.2 = n + 1 := ⟨r.2 - 1, by omega⟩
  rw [runTokens, hn, zeroTokens]
  split_ifs <;> simp

/-- A reader takes at least one length from each token. -/
theorem length_le_length_expandTokens (prev : Nat) (ts : List Token) : ts.length ≤ (expandTokens prev ts).length := by
  induction ts generalizing prev with
  | nil => exact Nat.le_refl 0
  | cons t ts ih =>
    rw [expandTokens]
    split_ifs <;> simp only [List.length_cons, List.length_append, List.length_replicate]
    · have := ih prev; omega
    · have := ih 0; omega
    · have := ih 0; omega
    · have := ih t.sym.toNat; omega

/-! The runs of a sequence. -/

theorem flatMap_runsOf (seq : List Nat) : ((runsOf seq).flatMap fun r => List.replicate r.2 r.1) = seq := by
  induction seq with
  | nil => rfl
  | cons v vs ih =>
    rw [runsOf]
    split
    · next h => simpa [h] using ih
    · next w k t h =>
      rw [h, List.flatMap_cons] at ih
      split_ifs with hvw
      · rw [← ih, hvw, List.flatMap_cons, List.replicate_succ]; rfl
      · rw [← ih]; rfl

theorem runsOf_pos (seq : List Nat) : ∀ r ∈ runsOf seq, 0 < r.2 := by
  induction seq with
  | nil => simp [runsOf]
  | cons v vs ih =>
    rw [runsOf]
    split
    · simp
    · next w k t h =>
      rw [h] at ih
      obtain ⟨-, ht⟩ := List.forall_mem_cons.mp ih
      split_ifs
      · exact List.forall_mem_cons.mpr ⟨Nat.succ_pos k, ht⟩
      · exact List.forall_mem_cons.mpr ⟨Nat.one_pos, ih⟩

/-- The value of a run is one of the sequence. -/
theorem mem_of_mem_runsOf {seq : List Nat} {r : Nat × Nat} (h : r ∈ runsOf seq) : r.1 ∈ seq := by
  rw [← flatMap_runsOf seq]
  exact List.mem_flatMap.mpr ⟨r, h, List.mem_replicate.mpr ⟨(runsOf_pos seq r h).ne', rfl⟩⟩

section
variable {seq : List Nat} (hseq : ∀ l ∈ seq, l ≤ 15)
include hseq

/-- TOK stands for the sequence it was cut from (R184). -/
theorem expandTokens_tokenize (prev : Nat) : expandTokens prev (tokenize seq) = seq :=
  (expandTokens_flatMap_runTokens prev fun r hr => ⟨hseq _ (mem_of_mem_runsOf hr), runsOf_pos seq r hr⟩).trans
    (flatMap_runsOf seq)

theorem legal_of_mem_tokenize {t : Token} (h : t ∈ tokenize seq) : t.Legal := by
  obtain ⟨r, hr, ht⟩ := List.mem_flatMap.mp h
  exact legal_of_mem_runTokens (hseq _ (mem_of_mem_runsOf hr)) ht

theorem head_tokenize_ne {t : Token} (h : t ∈ (tokenize seq).head?) : t.sym ≠ 16 := by
  rw [tokenize] at h
  cases hruns : runsOf seq with
  | nil => simp [hruns] at h
  | cons r rs =>
    have hr : r ∈ runsOf seq := hruns ▸ List.mem_cons_self
    have hne := runTokens_ne_nil (runsOf_pos seq r hr)
    rw [hruns, List.flatMap_cons, List.head?_append_of_ne_nil _ hne] at h
    exact head_runTokens_ne (hseq _ (mem_of_mem_runsOf hr)) h

theorem length_tokenize_le : (tokenize seq).length ≤ seq.length :=
  (length_le_length_expandTokens 0 _).trans_eq (congrArg List.length (expandTokens_tokenize hseq 0))

end

/-! ### S4.TOKENIZE -/

theorem arrayNat_toArray {w n : Nat} {l : List Nat} (hn : l.length = n) (h : ∀ v ∈ l, v < 2 ^ w) :
    arrayNat n (toArray w l) = l := by
  subst hn
  refine List.ext_getElem (length_arrayNat _ _) fun i hi hl => ?_
  have hget : l.getD i 0 = l[i] := (List.getD_eq_getElem l 0 hl)
  have hlt : l.getD i 0 < 2 ^ w := hget ▸ h _ (List.getElem_mem hl)
  rw [← hget, ← getD_toArray hlt]
  simp [arrayNat, padded]

/-- The lengths that the header sends (R183). -/
def State.sentLengths (s : State) : List Nat := lengthSeq (arrayNat 286 s.work.llLen) (arrayNat 30 s.work.dLen)

theorem State.sentLengths_le (s : State) : ∀ l ∈ s.sentLengths, l ≤ 15 := by
  intro l hl
  rcases List.mem_append.mp hl with h | h
  · exact arrayNat_le s.work.llLen rfl l (List.mem_of_mem_take h)
  · exact arrayNat_le s.work.dLen rfl l (List.mem_of_mem_take h)

theorem State.length_sentLengths_le (s : State) : s.sentLengths.length ≤ 316 := by
  have hll := nlitOf_le (length_arrayNat 286 s.work.llLen)
  have hd := ndistOf_le (length_arrayNat 30 s.work.dLen)
  simp only [State.sentLengths, lengthSeq, List.length_append, List.length_take]
  omega

theorem exec_s4Tokenize (s : State) :
    exec .s4Tokenize s =
      .next
        { s with
          work :=
            { s.work with
              nlit := BitVec.ofNat 9 (nlitOf (arrayNat 286 s.work.llLen))
              ndist := BitVec.ofNat 5 (ndistOf (arrayNat 30 s.work.dLen))
              tok := tokenize s.sentLengths
              clFreq := toArray 9 (tokenFreq (tokenize s.sentLengths)) }
          upc := Upc.s4HgenCl } :=
  rfl

/-- The counts of so few tokens fit CLFREQ. -/
theorem arrayNat_tokenFreq {ts : List Token} (h : ts.length ≤ 316) :
    arrayNat 19 (toArray 9 (tokenFreq ts)) = tokenFreq ts := by
  refine arrayNat_toArray (by simp [tokenFreq]) (List.forall_mem_map.mpr fun k _ => ?_)
  exact (List.countP_le_length.trans h).trans_lt (by decide)

/-- Settles O33: each run of equal lengths is sent so that a reader gets it back whatever comes before. -/
theorem tokensExpandToTheLengths : Obligations.TokensExpandToTheLengths := by
  intro s
  have hle := s.sentLengths_le
  refine ⟨_, exec_s4Tokenize s, ?_⟩
  dsimp only
  rw [toNat_nlit, toNat_ndist]
  exact ⟨rfl, expandTokens_tokenize hle 0, fun _ h => head_tokenize_ne hle h, fun _ h => legal_of_mem_tokenize hle h,
    arrayNat_tokenFreq ((length_tokenize_le hle).trans s.length_sentLengths_le)⟩

/-! ### Bits stored to HDR (R60, R177) -/

theorem getElem_bytesLe (v n i : Nat) (h : i < (bytesLe v n).length) : (bytesLe v n)[i] = BitVec.ofNat 8 (v / 256 ^ i) := by
  induction n generalizing v i with
  | zero => simp [bytesLe] at h
  | succ n ih =>
    cases i with
    | zero => simp [bytesLe]
    | succ i => simp [bytesLe, ih, Nat.div_div_eq_div_mul, pow_succ']

/-- A number stored as little-endian bytes is read back bit by bit. -/
theorem getLsbD_read_writeBytes {m : Memory} (hm : m.wf = true) (a v : Nat) {n k : Nat} (hk : k < 8 * n) :
    ((m.writeBytes a (bytesLe v n)).read (a + k / 8)).getLsbD (k % 8) = v.testBit k := by
  have hlen : k / 8 < (bytesLe v n).length := by rw [length_bytesLe]; omega
  have hpow : 256 ^ (k / 8) = 2 ^ (8 * (k / 8)) := Nat.pow_mul 2 8 (k / 8) |>.symm
  rw [m.read_writeBytes_inside a _ _ hm hlen, getElem_bytesLe, BitVec.getLsbD_ofNat, hpow, Nat.testBit_div_two_pow,
    Nat.mod_add_div, decide_eq_true (Nat.mod_lt k (by decide)), Bool.true_and]

theorem headerBits_congr {m m' : Memory} {n : Nat} (h : ∀ a, a < n → m'.read a = m.read a) :
    headerBits m' (8 * n) = headerBits m (8 * n) :=
  List.map_congr_left fun k hk => by rw [h _ (by have := List.mem_range.mp hk; omega)]

/-- After a store at the end of a header, the header goes on with the bits of the number stored. -/
theorem headerBits_writeBytes {m : Memory} (hm : m.wf = true) (a : Nat) (v : BitVec 64) {n k : Nat} (hk : k ≤ 8 * n) :
    headerBits (m.writeBytes a (bytesLe v.toNat n)) (8 * a + k) =
      headerBits m (8 * a) ++ (List.range k).map v.getLsbD := by
  have hold : headerBits (m.writeBytes a (bytesLe v.toNat n)) (8 * a) = headerBits m (8 * a) :=
    headerBits_congr fun b hb => m.read_writeBytes_outside a b _ (.inl hb)
  rw [← hold, headerBits, headerBits, List.range_add, List.map_append, List.map_map]
  refine congrArg _ (List.map_congr_left fun j hj => ?_)
  have hlt := List.mem_range.mp hj
  have hdiv : (8 * a + j) / 8 = a + j / 8 := by omega
  have hmod : (8 * a + j) % 8 = j % 8 := by omega
  rw [Function.comp, hdiv, hmod, getLsbD_read_writeBytes hm a _ (by omega)]
  rfl

/-! ### The accumulator (R171, R172, R176) -/

/-- The accumulator's relations, of which `State.accumulatorFits` speaks. -/
structure BitWriter.Fits (b : BitWriter) : Prop where
  nb_le : b.nb.toNat ≤ 47
  acc_lt : b.acc.toNat < 2 ^ b.nb.toNat
  outp_eq : b.outp.toNat = 6 * (b.total.toNat / 48)
  nb_eq : b.nb.toNat = b.total.toNat % 48
  total_le : b.total.toNat ≤ 2048

theorem State.accumulatorFits_iff (s : State) : s.accumulatorFits ↔ s.bitWriter.Fits :=
  ⟨fun ⟨h1, h2, h3, h4, h5⟩ => ⟨h1, h2, h3, h4, h5⟩, fun ⟨h1, h2, h3, h4, h5⟩ => ⟨h1, h2, h3, h4, h5⟩⟩

/-- The bits written since the last flush, of which `State.bitsInHand` speaks. -/
def BitWriter.bits (b : BitWriter) : List Bool :=
  headerBits b.hdr (8 * b.outp.toNat) ++ (List.range b.nb.toNat).map b.acc.getLsbD

theorem State.bitsInHand_eq (s : State) : s.bitsInHand = s.bitWriter.bits := rfl

/-- From `b` to `b'` exactly the fields are appended: the relations hold after, the bits in hand go on with the fields' bits, and
no byte of HDR changes outside the groups stored. -/
structure BitWriter.Appended (b : BitWriter) (fs : List Field) (b' : BitWriter) : Prop where
  fits : b'.Fits
  total : b'.total.toNat = b.total.toNat + fieldsLength fs
  outp_le : b.outp.toNat ≤ b'.outp.toNat
  read_eq : ∀ a, a < b.outp.toNat ∨ b'.outp.toNat ≤ a → b'.hdr.read a = b.hdr.read a
  wf : b.hdr.wf = true → b'.hdr.wf = true
  bits : b.hdr.wf = true → b'.bits = b.bits ++ fs.flatMap fieldBits

@[simp] theorem fieldsLength_nil : fieldsLength [] = 0 := rfl

@[simp] theorem fieldsLength_cons (f : Field) (fs : List Field) : fieldsLength (f :: fs) = f.n + fieldsLength fs := rfl

@[simp] theorem fieldsLength_append (fs gs : List Field) : fieldsLength (fs ++ gs) = fieldsLength fs + fieldsLength gs := by
  simp [fieldsLength]

theorem BitWriter.Appended.refl {b : BitWriter} (h : b.Fits) : b.Appended [] b :=
  ⟨h, rfl, le_rfl, fun _ _ => rfl, id, fun _ => (List.append_nil _).symm⟩

theorem BitWriter.Appended.trans {b b' b'' : BitWriter} {fs gs : List Field} (h : b.Appended fs b')
    (h' : b'.Appended gs b'') : b.Appended (fs ++ gs) b'' where
  fits := h'.fits
  total := by rw [h'.total, h.total, fieldsLength_append, Nat.add_assoc]
  outp_le := h.outp_le.trans h'.outp_le
  read_eq a ha := by
    have h1 := h.outp_le
    have h2 := h'.outp_le
    rw [h'.read_eq a (by omega), h.read_eq a (by omega)]
  wf hwf := h'.wf (h.wf hwf)
  bits hwf := by rw [h'.bits (h.wf hwf), h.bits hwf, List.flatMap_append, List.append_assoc]

section
variable {b : BitWriter} (hb : b.Fits) {f : Field} (hn : f.n ≤ 16)
include hb hn

theorem BitWriter.append_nb : (b.append f).nb.toNat = b.nb.toNat + f.n := by
  have hle := hb.nb_le
  exact Nat.mod_eq_of_lt (show b.nb.toNat + f.n < 2 ^ 7 by omega)

theorem BitWriter.append_total : (b.append f).total.toNat = b.total.toNat + f.n := by
  have hle := hb.total_le
  exact Nat.mod_eq_of_lt (show b.total.toNat + f.n < 2 ^ 12 by omega)

/-- ACC after an append, as a number: the field's low bits above the valid ones. -/
theorem BitWriter.append_acc :
    (b.append f).acc.toNat = b.acc.toNat ||| (f.bits.toNat % 2 ^ f.n) <<< b.nb.toNat := by
  have hnb := hb.nb_le
  have hlow : f.bits.toNat % 2 ^ f.n < 2 ^ f.n := Nat.mod_lt _ (Nat.two_pow_pos _)
  have hshift : (f.bits.toNat % 2 ^ f.n) <<< b.nb.toNat < 2 ^ 64 :=
    (Nat.shiftLeft_lt hlow).trans_le (Nat.pow_le_pow_right (by decide) (by omega))
  have hval : f.bits.toNat % 2 ^ f.n < 2 ^ 64 := hlow.trans_le (Nat.pow_le_pow_right (by decide) (by omega))
  simp only [BitWriter.append, BitVec.toNat_or, BitVec.toNat_shiftLeft, BitVec.toNat_ofNat]
  rw [Nat.mod_eq_of_lt hval, Nat.mod_eq_of_lt hshift]

theorem BitWriter.append_acc_lt : (b.append f).acc.toNat < 2 ^ (b.nb.toNat + f.n) := by
  rw [BitWriter.append_acc hb hn]
  refine Nat.or_lt_two_pow (hb.acc_lt.trans_le (Nat.pow_le_pow_right (by decide) (by omega))) ?_
  rw [Nat.add_comm]
  exact Nat.shiftLeft_lt (Nat.mod_lt _ (Nat.two_pow_pos _))

/-- An append leaves the valid bits and sets the field's above them. -/
theorem BitWriter.append_bits :
    (List.range (b.nb.toNat + f.n)).map (b.append f).acc.getLsbD =
      (List.range b.nb.toNat).map b.acc.getLsbD ++ fieldBits f := by
  have hbit : ∀ k, (b.append f).acc.getLsbD k =
      (b.acc.getLsbD k || (decide (b.nb.toNat ≤ k) && (f.bits.toNat % 2 ^ f.n).testBit (k - b.nb.toNat))) := fun k => by
    rw [BitVec.getLsbD, BitWriter.append_acc hb hn, Nat.testBit_or, Nat.testBit_shiftLeft]
    rfl
  rw [List.range_add, List.map_append, List.map_map]
  refine congrArg₂ _ (List.map_congr_left fun k hk => ?_) (List.map_congr_left fun k hk => ?_)
  · rw [hbit, decide_eq_false (Nat.not_le.mpr (List.mem_range.mp hk)), Bool.false_and, Bool.or_false]
  · have habove : b.acc.getLsbD (b.nb.toNat + k) = false :=
      Nat.testBit_lt_two_pow (hb.acc_lt.trans_le (Nat.pow_le_pow_right (by decide) (Nat.le_add_right _ _)))
    rw [Function.comp, hbit, habove, decide_eq_true (Nat.le_add_right _ _), Nat.add_sub_cancel_left, Nat.testBit_mod_two_pow,
      decide_eq_true (List.mem_range.mp hk)]
    rfl

/-- An append that fills no group (R172). -/
theorem BitWriter.appended_append (hcap : b.total.toNat + f.n ≤ 2048) (hfull : (b.append f).nb.toNat < 48) :
    b.Appended [f] (b.append f) := by
  have hnb := BitWriter.append_nb hb hn
  have htotal := BitWriter.append_total hb hn
  have hmod := hb.nb_eq
  have houtp : (b.append f).outp.toNat = 6 * (b.total.toNat / 48) := hb.outp_eq
  refine ⟨⟨by omega, ?_, by omega, by omega, by omega⟩, by simp [htotal], le_rfl, fun _ _ => rfl, id, fun _ => ?_⟩
  · exact hnb ▸ BitWriter.append_acc_lt hb hn
  · rw [BitWriter.bits, BitWriter.bits, hnb, BitWriter.append_bits hb hn, ← List.append_assoc, List.flatMap_singleton]
    rfl

/-- The accumulator after an append whose full group has been stored (R172). -/
def BitWriter.appendStored (b : BitWriter) (f : Field) : BitWriter :=
  { b.append f with
    hdr := b.hdr.writeBytes b.outp.toNat (bytesLe (b.append f).acc.toNat 6)
    outp := BitVec.ofNat 9 (b.outp.toNat + 6)
    acc := (b.append f).acc >>> 48
    nb := BitVec.ofNat 7 ((b.append f).nb.toNat - 48) }

/-- An append that fills a group: the group moves from ACC to HDR, bit by bit (R172). -/
theorem BitWriter.appended_appendStored (hcap : b.total.toNat + f.n ≤ 2048) (hfull : 48 ≤ (b.append f).nb.toNat) :
    b.Appended [f] (b.appendStored f) := by
  have hnb := BitWriter.append_nb hb hn
  have htotal := BitWriter.append_total hb hn
  have hle := hb.nb_le
  have hmod := hb.nb_eq
  have heq := hb.outp_eq
  have hnb' : (b.appendStored f).nb.toNat = b.nb.toNat + f.n - 48 := by
    rw [← hnb]
    exact Nat.mod_eq_of_lt (show (b.append f).nb.toNat - 48 < 2 ^ 7 by omega)
  have houtp' : (b.appendStored f).outp.toNat = b.outp.toNat + 6 :=
    Nat.mod_eq_of_lt (show b.outp.toNat + 6 < 2 ^ 9 by omega)
  have htotal' : (b.appendStored f).total.toNat = b.total.toNat + f.n := htotal
  have hacc' : (b.appendStored f).acc.toNat = (b.append f).acc.toNat / 2 ^ 48 := by
    rw [← Nat.shiftRight_eq_div_pow]
    exact BitVec.toNat_ushiftRight _ _
  refine ⟨⟨by omega, ?_, by omega, by omega, by omega⟩, by simp [htotal'], by omega, fun a ha => ?_,
    b.hdr.wf_writeBytes _ _, fun hwf => ?_⟩
  · rw [hnb', hacc', Nat.div_lt_iff_lt_mul (Nat.two_pow_pos _), ← pow_add,
      show b.nb.toNat + f.n - 48 + 48 = b.nb.toNat + f.n by omega]
    exact BitWriter.append_acc_lt hb hn
  · exact b.hdr.read_writeBytes_outside _ _ _ (by rw [length_bytesLe]; omega)
  · have hgroup : headerBits (b.appendStored f).hdr (8 * (b.outp.toNat + 6)) =
        headerBits b.hdr (8 * b.outp.toNat) ++ (List.range 48).map (b.append f).acc.getLsbD :=
      headerBits_writeBytes hwf b.outp.toNat (b.append f).acc (n := 6) (k := 48) le_rfl
    have hrest : (List.range (b.nb.toNat + f.n - 48)).map (b.appendStored f).acc.getLsbD =
        (List.range (b.nb.toNat + f.n - 48)).map ((b.append f).acc.getLsbD ∘ (48 + ·)) :=
      List.map_congr_left fun k _ => BitVec.getLsbD_ushiftRight _ _ _
    have hsplit : (List.range 48).map (b.append f).acc.getLsbD ++
        (List.range (b.nb.toNat + f.n - 48)).map ((b.append f).acc.getLsbD ∘ (48 + ·)) =
          (List.range b.nb.toNat).map b.acc.getLsbD ++ fieldBits f := by
      rw [← BitWriter.append_bits hb hn, ← List.map_map, ← List.map_append, ← List.range_add,
        show 48 + (b.nb.toNat + f.n - 48) = b.nb.toNat + f.n by omega]
    rw [BitWriter.bits, BitWriter.bits, hnb', houtp', hgroup, hrest, List.append_assoc, hsplit, ← List.append_assoc,
      List.flatMap_singleton]

/-- BW.WRITE within the cap appends its field; no group ever reaches the region's end. -/
theorem BitWriter.write_appended (hcap : b.total.toNat + f.n ≤ 2048) : ∃ b', b.write f = .ok b' ∧ b.Appended [f] b' := by
  have hnb := BitWriter.append_nb hb hn
  have hmod := hb.nb_eq
  have heq := hb.outp_eq
  rcases b.write_cases f with ⟨hover, -⟩ | ⟨-, hfull, hw⟩ | ⟨-, hfull, -, hw⟩ | ⟨-, hfull, hend, -⟩
  · simp only [hdrCapBits] at hover; omega
  · exact ⟨_, hw, BitWriter.appended_append hb hn hcap hfull⟩
  · exact ⟨_, hw, BitWriter.appended_appendStored hb hn hcap hfull⟩
  · simp only [groupBits, hdrRegionBytes] at hfull hend; omega

end

theorem BitWriter.write_above_cap {b : BitWriter} {f : Field} (h : 2048 < b.total.toNat + f.n) :
    b.write f = .error (.headerCap, b) := if_pos h

/-- Writes within the cap append their fields in order. -/
theorem BitWriter.writeAll_appended {b : BitWriter} {fs : List Field} (hb : b.Fits) (hn : ∀ f ∈ fs, f.n ≤ 16)
    (hcap : b.total.toNat + fieldsLength fs ≤ 2048) : ∃ b', b.writeAll fs = .ok b' ∧ b.Appended fs b' := by
  induction fs generalizing b with
  | nil => exact ⟨b, rfl, .refl hb⟩
  | cons f fs ih =>
    obtain ⟨hf, hfs⟩ := List.forall_mem_cons.mp hn
    rw [fieldsLength_cons] at hcap
    obtain ⟨b₁, hw, happ⟩ := BitWriter.write_appended hb hf (by omega)
    have htotal := happ.total
    rw [fieldsLength_cons, fieldsLength_nil] at htotal
    obtain ⟨b₂, hall, happ'⟩ := ih happ.fits hfs (by omega)
    exact ⟨b₂, by simp only [BitWriter.writeAll, hw, hall], happ.trans happ'⟩

/-- Writes above the cap are the fault HeaderCap after the fields before it (R175, log 28). -/
theorem BitWriter.writeAll_above_cap {b : BitWriter} {fs : List Field} (hb : b.Fits) (hn : ∀ f ∈ fs, f.n ≤ 16)
    (hcap : 2048 < b.total.toNat + fieldsLength fs) :
    ∃ b' done, b.writeAll fs = .error (.headerCap, b') ∧ b.Appended done b' := by
  induction fs generalizing b with
  | nil => exact absurd hb.total_le (Nat.not_le.mpr hcap)
  | cons f fs ih =>
    obtain ⟨hf, hfs⟩ := List.forall_mem_cons.mp hn
    rw [fieldsLength_cons] at hcap
    by_cases hover : 2048 < b.total.toNat + f.n
    · exact ⟨b, [], by simp only [BitWriter.writeAll, BitWriter.write_above_cap hover], .refl hb⟩
    · obtain ⟨b₁, hw, happ⟩ := BitWriter.write_appended hb hf (Nat.le_of_not_lt hover)
      have htotal := happ.total
      rw [fieldsLength_cons, fieldsLength_nil] at htotal
      obtain ⟨b₂, done, hall, happ'⟩ := ih happ.fits hfs (by omega)
      exact ⟨b₂, f :: done, by simp only [BitWriter.writeAll, hw, hall], happ.trans happ'⟩

/-- BW.FLUSH stores the bits in hand, zero-padded to a byte, and nothing else (R174). -/
theorem BitWriter.flush_stores {b : BitWriter} (hb : b.Fits) :
    ∃ m, b.flush = .ok ({ acc := 0, nb := 0, total := 0, outp := 0, hdr := m }, b.total) ∧
      (b.hdr.wf = true →
        m.wf = true ∧ headerBits m b.total.toNat = b.bits ∧
          ∀ k, b.total.toNat ≤ k → k < 8 * ceilDiv8 b.total.toNat → (m.read (k / 8)).getLsbD (k % 8) = false) ∧
      ∀ a, a < b.outp.toNat ∨ ceilDiv8 b.total.toNat ≤ a → m.read a = b.hdr.read a := by
  have hnb := hb.nb_eq
  have houtp := hb.outp_eq
  have hcap := hb.total_le
  have htotal : b.total.toNat = 8 * b.outp.toNat + b.nb.toNat := by omega
  have hend : b.outp.toNat + ceilDiv8 b.nb.toNat = ceilDiv8 b.total.toNat := by
    simp only [ceilDiv8, Nat.shiftRight_eq_div_pow]; omega
  have hceil : b.nb.toNat ≤ 8 * ceilDiv8 b.nb.toNat := by
    simp only [ceilDiv8, Nat.shiftRight_eq_div_pow]; omega
  rcases b.flush_cases with ⟨-, hf⟩ | ⟨hr, -⟩
  · refine ⟨_, hf, fun hwf => ⟨b.hdr.wf_writeBytes _ _ hwf, ?_, fun k hlo hhi => ?_⟩, fun a ha => ?_⟩
    · rw [htotal]
      exact headerBits_writeBytes hwf b.outp.toNat b.acc hceil
    · obtain ⟨j, rfl⟩ : ∃ j, k = 8 * b.outp.toNat + j := ⟨k - 8 * b.outp.toNat, by omega⟩
      have hdiv : (8 * b.outp.toNat + j) / 8 = b.outp.toNat + j / 8 := by omega
      have hmod : (8 * b.outp.toNat + j) % 8 = j % 8 := by omega
      rw [hdiv, hmod, getLsbD_read_writeBytes hwf _ _ (by omega)]
      exact Nat.testBit_lt_two_pow (hb.acc_lt.trans_le (Nat.pow_le_pow_right (by decide) (by omega)))
    · exact b.hdr.read_writeBytes_outside _ _ _ (by rw [length_bytesLe]; omega)
  · have hin : inRegion hdrRegionBytes b.outp.toNat (ceilDiv8 b.nb.toNat) = true := by
      refine decide_eq_true (.inr ?_)
      rw [hend]
      simp only [ceilDiv8, Nat.shiftRight_eq_div_pow, hdrRegionBytes]; omega
    exact absurd (hin.symm.trans hr) (by decide)

/-! ### The instructions that write through the accumulator (R180, R181, R186 to R188, logs 14, 37) -/

theorem blkhdrFields_eq (bf : Bool) : blkhdrFields bf = [field (if bf then 5 else 4) 3] := by
  cases bf <;> rfl

/-- What an instruction of `State.fieldsOf` does is to write its fields. -/
theorem exec_of_fieldsOf {s : State} {i : Instr} {fs : List Field} {u : BitVec 8} (h : s.fieldsOf i = some (fs, u)) :
    exec i s = .next (s.writeFields fs u) := by
  cases i with
  | s4Prefix | s4Counts | s4Cllens | s4Seq | clLen _ | clRep16 _ | clRep17 _ | clRep18 _ => cases h; rfl
  | s4Blkhdr | hdrDynamic _ =>
    cases h
    rw [← blkhdrFields_eq]
    rfl
  | _ => cases h

theorem symbolField_n_le (clRev : List (BitVec 7)) (clLen : List (BitVec 3)) (sym : Nat) :
    (symbolField clRev clLen sym).n ≤ 16 :=
  (Nat.le_of_lt (clLen.getD sym 0).isLt).trans (by decide)

theorem tokenFields_n_le (clRev : List (BitVec 7)) (clLen : List (BitVec 3)) (sym extra : Nat) {ebits : Nat}
    (h : ebits ≤ 16) : ∀ f ∈ tokenFields clRev clLen sym extra ebits, f.n ≤ 16 := by
  refine List.forall_mem_cons.mpr ⟨symbolField_n_le clRev clLen sym, fun f hf => ?_⟩
  split at hf
  · exact List.mem_singleton.mp hf ▸ h
  · cases hf

theorem cllenFields_n {clLen : List (BitVec 3)} {nclen : Nat} {f : Field} (h : f ∈ cllenFields clLen nclen) : f.n = 3 := by
  obtain ⟨k, -, rfl⟩ := List.mem_map.mp h
  rfl

theorem State.seqFields_n_le (s : State) : ∀ f ∈ s.seqFields, f.n ≤ 16 := by
  intro f hf
  obtain ⟨t, -, ht⟩ := List.mem_flatMap.mp hf
  exact tokenFields_n_le _ _ _ _ ((Nat.le_of_lt t.ebits.isLt).trans (by decide)) f ht

/-- No field is wider than 16 bits, so a group and a field fit ACC. -/
theorem State.fieldsOf_n_le {s : State} {i : Instr} {fs : List Field} {u : BitVec 8} (h : s.fieldsOf i = some (fs, u)) :
    ∀ f ∈ fs, f.n ≤ 16 := by
  have hsym := symbolField_n_le s.work.clRev s.work.clLen
  cases i with
  | s4Prefix =>
    cases h
    exact List.forall_mem_singleton.mpr ((Nat.le_of_lt s.cbn.isLt).trans (by decide))
  | s4Blkhdr | hdrDynamic _ =>
    cases h
    exact List.forall_mem_singleton.mpr (show 3 ≤ 16 by decide)
  | s4Counts =>
    cases h
    simp [field]
  | s4Cllens =>
    cases h
    exact fun f hf => (cllenFields_n hf).trans_le (by decide)
  | s4Seq =>
    cases h
    exact s.seqFields_n_le
  | clLen v =>
    cases h
    exact List.forall_mem_singleton.mpr (hsym _)
  | clRep16 _ | clRep17 _ | clRep18 _ =>
    cases h
    exact List.forall_mem_cons.mpr ⟨hsym _, List.forall_mem_singleton.mpr (by simp [field])⟩
  | _ => cases h

@[simp] theorem State.bitWriter_setBitWriter (s : State) (b : BitWriter) : (s.setBitWriter b).bitWriter = b := by
  simp [State.bitWriter]

@[simp] theorem State.bitWriter_goto (s : State) (u : BitVec 8) : (s.goto u).bitWriter = s.bitWriter := rfl

@[simp] theorem State.bitWriter_enterFault (s : State) (r : FaultReason) : (s.enterFault r).bitWriter = s.bitWriter := rfl

theorem State.hdr_wf {s : State} (h : s.memoryInv) : s.bitWriter.hdr.wf = true := by
  obtain ⟨-, -, haecs⟩ := s.memoryInv_iff.mp h
  obtain ⟨-, -, hhdr⟩ := s.cur.canonical_iff.mp (haecs s.tgl)
  exact hhdr

/-- The state after a write is the accumulator's group written back. -/
theorem State.setBitWriter_goto_eq (s : State) (b : BitWriter) (u : BitVec 8) :
    (s.setBitWriter b).goto u =
      { s.setCur { s.cur with hdr := ((s.setBitWriter b).goto u).cur.hdr } with
        acc := b.acc, nb := b.nb, total := b.total, outp := b.outp, upc := u } := by
  have hhdr : ((s.setBitWriter b).goto u).cur.hdr = b.hdr := congrArg Aecs.hdr (s.setBitWriter_cur b)
  rw [hhdr]
  rfl

theorem State.setBitWriter_enterFault_eq (s : State) (b : BitWriter) (r : FaultReason) :
    (s.setBitWriter b).enterFault r =
      { s.setCur { s.cur with hdr := ((s.setBitWriter b).enterFault r).cur.hdr } with
        acc := b.acc, nb := b.nb, total := b.total, outp := b.outp, fault := true, upc := 0xF0#8 } := by
  have hhdr : ((s.setBitWriter b).enterFault r).cur.hdr = b.hdr := congrArg Aecs.hdr (s.setBitWriter_cur b)
  rw [hhdr]
  rfl

/-- Within the cap, an instruction of `State.fieldsOf` appends its fields. -/
theorem exec_appended {s : State} {i : Instr} {fs : List Field} {u : BitVec 8} (h : s.fieldsOf i = some (fs, u))
    (hfits : s.bitWriter.Fits) (hcap : s.total.toNat + fieldsLength fs ≤ 2048) :
    ∃ b, exec i s = .next ((s.setBitWriter b).goto u) ∧ s.bitWriter.Appended fs b := by
  obtain ⟨b, hall, happ⟩ := BitWriter.writeAll_appended hfits (State.fieldsOf_n_le h) hcap
  exact ⟨b, by rw [exec_of_fieldsOf h, State.writeFields, hall], happ⟩

/-- Above the cap it is a fault, after some of its fields. -/
theorem exec_above_cap {s : State} {i : Instr} {fs : List Field} {u : BitVec 8} (h : s.fieldsOf i = some (fs, u))
    (hfits : s.bitWriter.Fits) (hcap : 2048 < s.total.toNat + fieldsLength fs) :
    ∃ b done, exec i s = .next ((s.setBitWriter b).enterFault .headerCap) ∧ s.bitWriter.Appended done b := by
  obtain ⟨b, done, hall, happ⟩ := BitWriter.writeAll_above_cap hfits (State.fieldsOf_n_le h) hcap
  exact ⟨b, done, by rw [exec_of_fieldsOf h, State.writeFields, hall], happ⟩

/-- Settles O34: each field goes through ACC, whose full groups move to HDR. -/
theorem headerWritesAppendTheirFields : Obligations.HeaderWritesAppendTheirFields := by
  intro s i fs u h hmem hfits hcap
  obtain ⟨b, hexec, happ⟩ := exec_appended h (s.accumulatorFits_iff.mp hfits) hcap
  have hb : ((s.setBitWriter b).goto u).bitWriter = b := by simp
  have hhdr : ((s.setBitWriter b).goto u).cur.hdr = b.hdr := congrArg BitWriter.hdr hb
  refine ⟨_, hexec, s.setBitWriter_goto_eq b u, (State.accumulatorFits_iff _).mpr (hb.symm ▸ happ.fits), happ.total, ?_, ?_⟩
  · rw [State.bitsInHand_eq, hb]
    exact happ.bits (State.hdr_wf hmem)
  · rw [hhdr]
    exact happ.read_eq

/-- Settles O35: the writes before the fault stayed within the cap, and so within HDR. -/
theorem headerCapIsAFault : Obligations.HeaderCapIsAFault := by
  intro s i fs u h hfits hcap
  obtain ⟨b, done, hexec, happ⟩ := exec_above_cap h (s.accumulatorFits_iff.mp hfits) hcap
  have hb : ((s.setBitWriter b).enterFault .headerCap).bitWriter = b := by simp
  have hhdr : ((s.setBitWriter b).enterFault .headerCap).cur.hdr = b.hdr := congrArg BitWriter.hdr hb
  have htotal := happ.fits.total_le
  have houtp := happ.fits.outp_eq
  refine ⟨_, hexec, s.setBitWriter_enterFault_eq b .headerCap, htotal, fun a ha => ?_⟩
  rw [hhdr]
  exact happ.read_eq a (ha.imp_right fun h => by omega)

/-! ### S4.FLUSH (R174, R189) -/

/-- The state after S4.FLUSH, with the header in `m`. -/
def State.flushed (s : State) (m : Memory) : State :=
  { s.setCur { s.cur with hdr := m, hdrBits := s.total } with
    acc := 0, nb := 0, total := 0, outp := 0, hb := s.total, upc := Upc.s5Encode }

theorem State.flushed_other (s : State) (m : Memory) : (s.flushed m).aecs (!s.tgl) = s.aecs (!s.tgl) :=
  s.other_setCur _

theorem State.flushed_cur (s : State) (m : Memory) : (s.flushed m).cur = { s.cur with hdr := m, hdrBits := s.total } :=
  s.cur_setCur _

theorem exec_s4Flush_of_flush {s : State} {m : Memory}
    (h : s.bitWriter.flush = .ok ({ acc := 0, nb := 0, total := 0, outp := 0, hdr := m }, s.total)) :
    exec .s4Flush s = .next (s.flushed m) := by
  show execS4Flush s = _
  unfold execS4Flush
  rw [h]
  cases htgl : s.tgl <;> simp [State.flushed, State.setBitWriter, State.setCur, State.setAecs, State.cur, State.aecs, htgl]

/-- Settles O36. -/
theorem flushRecordsTheHeader : Obligations.FlushRecordsTheHeader := by
  intro s hmem hfits
  obtain ⟨m, hflush, hstored, hframe⟩ := BitWriter.flush_stores (s.accumulatorFits_iff.mp hfits)
  obtain ⟨-, hbits, hpad⟩ := hstored (State.hdr_wf hmem)
  have hhdr : (s.flushed m).cur.hdr = m := congrArg Aecs.hdr (s.flushed_cur m)
  refine ⟨_, exec_s4Flush_of_flush hflush, ?_⟩
  rw [hhdr]
  exact ⟨rfl, hbits, hpad, hframe⟩

/-! ### The whole header (R99, R190) -/

theorem fieldsLength_of_n_eq {fs : List Field} {n : Nat} (h : ∀ f ∈ fs, f.n = n) : fieldsLength fs = n * fs.length := by
  induction fs with
  | nil => rfl
  | cons f fs ih =>
    obtain ⟨hf, hfs⟩ := List.forall_mem_cons.mp h
    rw [fieldsLength_cons, hf, ih hfs, List.length_cons, Nat.mul_succ, Nat.add_comm]

theorem fieldsLength_cllenFields (clLen : List (BitVec 3)) {nclen : Nat} (h : nclen ≤ 19) :
    fieldsLength (cllenFields clLen nclen) = 3 * nclen := by
  rw [fieldsLength_of_n_eq fun f => cllenFields_n, cllenFields, List.length_map, List.length_take, min_eq_left]
  exact h

theorem fieldsLength_headerFields {s : State} (h : s.work.nclen.toNat ≤ 19) :
    fieldsLength s.headerFields = s.cbn.toNat + 3 + 14 + 3 * s.work.nclen.toNat + fieldsLength s.seqFields := by
  simp only [State.headerFields, fieldsLength_append, fieldsLength_cons, fieldsLength_nil, fieldsLength_cllenFields _ h, field]

/-- The fields that the five writes of the sequence append, in order: BFINAL and BTYPE go out as one field. -/
def State.writtenFields (s : State) : List Field :=
  [field s.cb.toNat s.cbn.toNat] ++ [field (if s.work.bf then 5 else 4) 3] ++
    [field (s.work.nlit.toNat - 257) 5, field (s.work.ndist.toNat - 1) 5, field (s.work.nclen.toNat - 4) 4] ++
    cllenFields s.work.clLen s.work.nclen.toNat ++ s.seqFields

theorem fieldBits_blkhdr (bf : Bool) :
    fieldBits (field (if bf then 5 else 4) 3) = fieldBits (field (bitNat bf) 1) ++ fieldBits (field 2 2) := by
  cases bf <;> decide

theorem State.writtenFields_bits (s : State) :
    s.writtenFields.flatMap fieldBits = s.headerFields.flatMap fieldBits := by
  simp [State.writtenFields, State.headerFields, fieldBits_blkhdr]

theorem State.fieldsLength_writtenFields (s : State) : fieldsLength s.writtenFields = fieldsLength s.headerFields := by
  simp only [State.writtenFields, State.headerFields, fieldsLength_append, fieldsLength_cons, fieldsLength_nil, field]

theorem State.setBitWriter_goto_setBitWriter_goto (s : State) (b b' : BitWriter) (u v : BitVec 8) :
    (((s.setBitWriter b).goto u).setBitWriter b').goto v = (s.setBitWriter b').goto v := by
  cases h : s.tgl <;> simp [State.setBitWriter, State.goto, State.setCur, State.setAecs, State.cur, State.aecs, h]

/-- A micro-operation's fields do not depend on the accumulator, nor on UPC. -/
theorem State.fieldsOf_setBitWriter_goto (s : State) (b : BitWriter) (u : BitVec 8) {i : Instr} (h : (encode i).fmt = .upc) :
    ((s.setBitWriter b).goto u).fieldsOf i = s.fieldsOf i := by
  cases i with
  | s4Prefix | s4Blkhdr | s4Counts | s4Cllens | s4Seq => simp [State.fieldsOf, State.seqFields]
  | hdrDynamic _ | clLen _ | clRep16 _ | clRep17 _ | clRep18 _ => cases h
  | _ => rfl

/-- One write of the sequence: with `done` appended so far, the micro-operation appends its fields and the run goes on. -/
theorem State.runsTo_write {s : State} {b : BitWriter} {u v : BitVec 8} {i : Instr} {done fs : List Field} {k : Nat}
    {p : State → Prop} (hwire : s.wire = none) (hu : u ≠ Upc.idle) (hd : decodeUpc u = .ok i)
    (hfs : s.fieldsOf i = some (fs, v)) (happ : s.bitWriter.Appended done b)
    (hcap : s.total.toNat + fieldsLength (done ++ fs) ≤ 2048)
    (hnext : ∀ b', s.bitWriter.Appended (done ++ fs) b' → RunsTo k ((s.setBitWriter b').goto v) p) :
    RunsTo (k + 1) ((s.setBitWriter b).goto u) p := by
  have hb : ((s.setBitWriter b).goto u).bitWriter = b := by simp
  have htotal : b.total.toNat = s.total.toNat + fieldsLength done := happ.total
  rw [fieldsLength_append] at hcap
  rw [← s.fieldsOf_setBitWriter_goto b u (congrArg Encoded.fmt (encode_of_decodeUpc hd))] at hfs
  have hcap' : b.total.toNat + fieldsLength fs ≤ 2048 := by omega
  obtain ⟨b', hexec, happ'⟩ := exec_appended hfs (hb.symm ▸ happ.fits) hcap'
  rw [State.setBitWriter_goto_setBitWriter_goto] at hexec
  rw [hb] at happ'
  have hstep : step ((s.setBitWriter b).goto u) = exec i ((s.setBitWriter b).goto u) :=
    step_eq_exec (by simpa using hwire) hu hd
  exact runsTo_succ (hstep.trans hexec) (hnext b' (happ.trans happ'))

/-- What the sequence leaves: the header whole in HDR, its length in HB and HDRBITS, and everything else as it was. -/
def State.HeaderLeft (s t : State) : Prop :=
  t.upc = Upc.s5Encode ∧ t.hb.toNat = fieldsLength s.headerFields ∧ t.cur.hdrBits = t.hb ∧
    headerBits t.cur.hdr t.hb.toNat = s.headerFields.flatMap fieldBits ∧
    t.cb = s.cb ∧ t.cbn = s.cbn ∧ t.sink = s.sink ∧ t.crc = s.crc ∧ t.tgl = s.tgl ∧
    t.cur.histLL = s.cur.histLL ∧ t.cur.histD = s.cur.histD ∧ t.aecs (!s.tgl) = s.aecs (!s.tgl)

/-- S4.FLUSH after every field of the header. -/
theorem State.runsTo_flush {s : State} {b : BitWriter} (hwire : s.wire = none) (hmem : s.memoryInv)
    (hclear : s.accumulatorClear) (happ : s.bitWriter.Appended s.writtenFields b) :
    RunsTo 1 ((s.setBitWriter b).goto Upc.s4Flush) s.HeaderLeft := by
  have hb : ((s.setBitWriter b).goto Upc.s4Flush).bitWriter = b := by simp
  have hwf := State.hdr_wf hmem
  obtain ⟨-, hnb, htotal, houtp⟩ := hclear
  have hbits : b.bits = s.headerFields.flatMap fieldBits := by
    rw [happ.bits hwf, s.writtenFields_bits, ← State.bitsInHand_eq, State.bitsInHand, hnb, houtp]
    rfl
  have hlen : b.total.toNat = fieldsLength s.headerFields := by
    rw [happ.total, s.fieldsLength_writtenFields]
    show s.total.toNat + _ = _
    rw [htotal]
    exact Nat.zero_add _
  obtain ⟨m, hflush, hstored, -⟩ := BitWriter.flush_stores happ.fits
  obtain ⟨-, hheader, -⟩ := hstored (happ.wf hwf)
  rw [← hb] at hflush
  have hstep : step ((s.setBitWriter b).goto Upc.s4Flush) = exec .s4Flush ((s.setBitWriter b).goto Upc.s4Flush) :=
    step_eq_exec (by simpa using hwire) (show Upc.s4Flush ≠ Upc.idle by decide) rfl
  have hcur : (((s.setBitWriter b).goto Upc.s4Flush).flushed m).cur = { s.cur with hdr := m, hdrBits := b.total } := by
    rw [State.flushed_cur, show ((s.setBitWriter b).goto Upc.s4Flush).cur = _ from s.setBitWriter_cur b]
    rfl
  have hother := ((s.setBitWriter b).goto Upc.s4Flush).flushed_other m
  rw [State.goto_tgl, State.setBitWriter_tgl] at hother
  refine runsTo_succ (hstep.trans (exec_s4Flush_of_flush hflush)) ⟨_, rfl, rfl, hlen, ?_⟩
  rw [hcur]
  exact ⟨rfl, hheader.trans hbits, by simp [State.flushed], by simp [State.flushed], by simp [State.flushed],
    by simp [State.flushed], by simp [State.flushed], rfl, rfl, hother.trans (s.setBitWriter_other b)⟩

theorem State.accumulatorFits_of_clear {s : State} (h : s.accumulatorClear) : s.accumulatorFits := by
  obtain ⟨hacc, hnb, htotal, houtp⟩ := h
  simp [State.accumulatorFits, hacc, hnb, htotal, houtp]

theorem State.setCur_cur (s : State) : s.setCur s.cur = s := by
  unfold State.setCur State.cur
  cases s.tgl <;> rfl

theorem State.setBitWriter_bitWriter_goto (s : State) : (s.setBitWriter s.bitWriter).goto s.upc = s := by
  show { s.setCur s.cur with acc := s.acc, nb := s.nb, total := s.total, outp := s.outp, upc := s.upc } = s
  rw [s.setCur_cur]

/-- Five writes, each onto what the ones before it wrote, then S4.FLUSH. -/
theorem State.runsTo_header {s : State} (hwire : s.wire = none) (hmem : s.memoryInv) (hclear : s.accumulatorClear)
    (hcap : fieldsLength s.headerFields ≤ 2048) :
    RunsTo 6 ((s.setBitWriter s.bitWriter).goto Upc.s4Prefix) s.HeaderLeft := by
  have hfits : s.bitWriter.Fits := s.accumulatorFits_iff.mp (State.accumulatorFits_of_clear hclear)
  have ⟨_, _, htotal, _⟩ := hclear
  have hzero : s.total.toNat = 0 := congrArg BitVec.toNat htotal
  rw [← s.fieldsLength_writtenFields] at hcap
  simp only [State.writtenFields, fieldsLength_append] at hcap
  refine State.runsTo_write hwire (by decide) rfl rfl (.refl hfits) ?_ fun _ hcarried =>
    State.runsTo_write hwire (by decide) rfl rfl hcarried ?_ fun _ hblkhdr =>
    State.runsTo_write hwire (by decide) rfl rfl hblkhdr ?_ fun _ hcounts =>
    State.runsTo_write hwire (by decide) rfl rfl hcounts ?_ fun _ hcllens =>
    State.runsTo_write hwire (by decide) rfl rfl hcllens ?_ fun _ hseq =>
    State.runsTo_flush hwire hmem hclear hseq
  all_goals
    simp only [fieldsLength_append, fieldsLength_nil]
    omega

/-- Settles O37. -/
theorem wholeHeader : Obligations.WholeHeader := by
  intro s hwire hu hmem hclear hnclen hcap
  have hrun := State.runsTo_header hwire hmem hclear hcap
  rw [← hu, s.setBitWriter_bitWriter_goto] at hrun
  exact ⟨fieldsLength_headerFields hnclen, hrun⟩

/-! ### The accumulator over a step (R176, R373) -/

/-- The accumulator's registers, and the wire slot: what `State.accumulatorInv` depends on, beside UPC. -/
structure AccumulatorRegs where
  acc : BitVec 64
  nb : BitVec 7
  total : BitVec 12
  outp : BitVec 9
  wire : Option WireWord

/-- The accumulator's registers of a state. -/
def State.accRegs (s : State) : AccumulatorRegs :=
  { acc := s.acc, nb := s.nb, total := s.total, outp := s.outp, wire := s.wire }

theorem State.accRegs_setCur (s : State) (a : Aecs) : (s.setCur a).accRegs = s.accRegs := by simp [State.accRegs]

theorem State.accRegs_afterJob (s : State) (j : Job) (r : JobAnswer) : (s.afterJob j r).accRegs = s.accRegs := by
  simp [State.accRegs, State.afterJob]

theorem State.accRegs_endBlock (s : State) (n : BitVec 64) : (s.endBlock n).accRegs = s.accRegs := by
  rcases s.endBlock_cases n with ⟨-, h⟩ | ⟨-, h⟩ <;> rw [h] <;> rfl

theorem State.accRegs_holdCarry (s : State) : s.holdCarry.accRegs = s.accRegs := by
  unfold State.holdCarry
  split <;> rfl

theorem State.accRegs_emit {s : State} (bytes : List Byte) {next : State → State}
    (hnext : ∀ t, (next t).accRegs = t.accRegs) : (s.emit bytes next).accRegs = s.accRegs := by
  rcases s.emit_cases bytes next with ⟨q, h, -⟩ | ⟨n, q, -, h⟩ <;> rw [h]
  · exact hnext _
  · rfl

theorem State.accRegs_submit {s : State} (j : Job) (fits : Nat → Bool) {done : State → State}
    (hdone : ∀ t, (done t).accRegs = t.accRegs) : (s.submit j fits done).accRegs = s.accRegs := by
  rcases s.submit_cases j fits done with ⟨h, -⟩ | ⟨m, q, -, -, h⟩ | ⟨m, q, r, q', -, -, -, h⟩ <;> rw [h]
  · rfl
  · exact (hdone _).trans (State.accRegs_afterJob _ j r)

/-- Whatever the state, the instruction leaves the accumulator's registers and the wire slot as they are. -/
def LeavesAccumulator (i : Instr) : Prop := ∀ s, ∃ t, exec i s = .next t ∧ t.accRegs = s.accRegs

theorem leavesAccumulator_check : LeavesAccumulator .check := by
  intro s
  rcases exec_check_cases s with ⟨c, h⟩ | h | h | ⟨-, -, -, h⟩ | ⟨final, len, -, -, h⟩ <;> exact ⟨_, h, rfl⟩

theorem leavesAccumulator_xReadall : LeavesAccumulator .xReadall := by
  intro s
  rcases execXReadall_cases s with ⟨-, h⟩ | ⟨-, -, h⟩ | ⟨-, -, -, h⟩ | ⟨-, -, -, h⟩ | ⟨-, -, -, h⟩ <;> exact ⟨_, h, rfl⟩

theorem leavesAccumulator_s1Select : LeavesAccumulator .s1Select := fun s => ⟨_, rfl, s.accRegs_setCur _⟩

theorem leavesAccumulator_s2Stat : LeavesAccumulator .s2Stat := fun s =>
  ⟨_, rfl, State.accRegs_submit s.statJob _ fun t => by split <;> rfl⟩

theorem leavesAccumulator_s3Eob : LeavesAccumulator .s3Eob := by
  refine fun s => ⟨_, rfl, ?_⟩
  split
  · exact s.accRegs_setCur _
  · rfl

theorem leavesAccumulator_s3HgenLl : LeavesAccumulator .s3HgenLl := fun _ => ⟨_, rfl, by split <;> rfl⟩

theorem leavesAccumulator_s3HgenD : LeavesAccumulator .s3HgenD := fun _ => ⟨_, rfl, by split <;> rfl⟩

theorem leavesAccumulator_s3CanonLl : LeavesAccumulator .s3CanonLl := by
  refine fun s => ⟨_, rfl, ?_⟩
  split
  · rfl
  · dsimp only
    split
    · rfl
    · exact s.accRegs_setCur _

theorem leavesAccumulator_s3CanonD : LeavesAccumulator .s3CanonD := by
  refine fun s => ⟨_, rfl, ?_⟩
  dsimp only
  split
  · rfl
  · exact s.accRegs_setCur _

theorem leavesAccumulator_s4HgenCl : LeavesAccumulator .s4HgenCl := fun _ => ⟨_, rfl, by split <;> rfl⟩

theorem leavesAccumulator_s4CanonCl : LeavesAccumulator .s4CanonCl := fun _ => ⟨_, rfl, by split <;> rfl⟩

theorem leavesAccumulator_s5Encode : LeavesAccumulator .s5Encode := fun s =>
  ⟨_, rfl, State.accRegs_submit s.encodeJob _ fun _ => rfl⟩

theorem leavesAccumulator_s6Interpret : LeavesAccumulator .s6Interpret := by
  intro s
  rcases exec_s6Interpret_cases s with h | ⟨-, h⟩ | h | h <;> exact ⟨_, h, rfl⟩

theorem leavesAccumulator_s6EmitCarry : LeavesAccumulator .s6EmitCarry := by
  refine fun s => ⟨_, rfl, ?_⟩
  split
  · rfl
  · split
    · rfl
    · exact State.accRegs_emit _ State.accRegs_holdCarry

theorem leavesAccumulator_s6EmitAll : LeavesAccumulator .s6EmitAll := by
  refine fun s => ⟨_, rfl, ?_⟩
  split
  · rfl
  · exact State.accRegs_emit _ fun _ => rfl

theorem leavesAccumulator_s6Stored : LeavesAccumulator .s6Stored := by
  refine fun s => ⟨_, rfl, ?_⟩
  split
  · rfl
  · exact State.accRegs_emit _ fun _ => rfl

theorem leavesAccumulator_s7Update : LeavesAccumulator .s7Update := by
  refine fun s => ⟨_, rfl, ?_⟩
  split
  · exact State.accRegs_endBlock _ _
  · split
    · rfl
    · exact State.accRegs_endBlock _ _

theorem leavesAccumulator_zStored : LeavesAccumulator .zStored := fun _ =>
  ⟨_, rfl, State.accRegs_emit _ fun t => t.clearCarry.accRegs_endBlock 0⟩

/-! What keeps `State.accumulatorInv`. -/

theorem State.accumulatorInv_of_clear {s : State} (hwire : s.wire = none) (h : s.accumulatorClear) : s.accumulatorInv :=
  ⟨hwire, State.accumulatorFits_of_clear h, fun _ _ => h⟩

theorem State.accumulatorClear_congr {s t : State} (h : t.accRegs = s.accRegs) :
    t.accumulatorClear ↔ s.accumulatorClear := by
  simp only [State.accRegs, AccumulatorRegs.mk.injEq] at h
  simp [State.accumulatorClear, h]

/-- The registers stay, and the DFE is outside the header phase: wherever it goes on, the accumulator is clear. -/
theorem State.accumulatorInv_of_outside {s t : State} (h : s.accumulatorInv) (hr : t.accRegs = s.accRegs)
    (hout : inHeaderPhase s.upc = false) (hne : s.upc ≠ Upc.faulted) : t.accumulatorInv := by
  obtain ⟨hwire, -, hclear⟩ := h
  exact State.accumulatorInv_of_clear ((congrArg AccumulatorRegs.wire hr).trans hwire)
    ((State.accumulatorClear_congr hr).mpr (hclear hout hne))

theorem State.accumulatorInv_enterFault {s : State} (r : FaultReason) (h : s.accumulatorInv) :
    (s.enterFault r).accumulatorInv := by
  obtain ⟨hwire, hfits, -⟩ := h
  exact ⟨hwire, hfits, fun _ hne => absurd rfl hne⟩

theorem State.accumulatorInv_writeCmd {s : State} (w : Word) (h : s.accumulatorInv) : (s.writeCmd w).accumulatorInv := by
  rcases s.writeCmd_cases w with ⟨hu, hw⟩ | ⟨-, hw⟩ | ⟨-, -, hw⟩ <;> rw [hw]
  · exact State.accumulatorInv_of_outside h rfl (hu ▸ rfl) (hu ▸ by decide)
  · exact h
  · exact h

theorem State.accumulatorInv_hostTurn {s : State} (h : s.accumulatorInv) : s.hostTurn.accumulatorInv := by
  rcases s.hostTurn_cases with ⟨-, ht⟩ | ⟨w, q, -, ht⟩ | ⟨off, w, q, -, -, ht⟩ | ⟨bytes, q, -, ht⟩ | ⟨src, q, -, ht⟩ |
    ⟨ready, q, -, ht⟩ <;> rw [ht]
  · exact h
  · exact State.accumulatorInv_writeCmd w (s := { s with script := q }) h
  · exact h
  · rcases State.loadIn_cases { s with script := q } bytes with ⟨-, hl⟩ | ⟨-, hl⟩ <;> rw [hl]
    · exact h
    · exact State.accumulatorInv_enterFault _ (s := { s with script := q }) h
  · exact h
  · exact hwReset_accumulatorInv ready

/-- A write to the header, whether it fits or meets the cap, keeps the relations; where it goes on, the header phase does. -/
theorem State.accumulatorInv_of_fieldsOf {s t : State} {i : Instr} {fs : List Field} {u : BitVec 8} (h : s.accumulatorInv)
    (hfs : s.fieldsOf i = some (fs, u)) (hu : inHeaderPhase u = true) (ht : exec i s = .next t) : t.accumulatorInv := by
  obtain ⟨hwire, hfits, -⟩ := h
  have hb := s.accumulatorFits_iff.mp hfits
  rcases Nat.lt_or_ge 2048 (s.total.toNat + fieldsLength fs) with hcap | hcap
  · obtain ⟨b, done, hexec, happ⟩ := exec_above_cap hfs hb hcap
    obtain rfl := Host.Outcome.next.inj (hexec.symm.trans ht)
    refine ⟨by simpa using hwire, (State.accumulatorFits_iff _).mpr ?_, fun _ hne => absurd rfl hne⟩
    simpa using happ.fits
  · obtain ⟨b, hexec, happ⟩ := exec_appended hfs hb hcap
    obtain rfl := Host.Outcome.next.inj (hexec.symm.trans ht)
    refine ⟨by simpa using hwire, (State.accumulatorFits_iff _).mpr ?_, fun hout => ?_⟩
    · simpa using happ.fits
    · exact absurd (hu.symm.trans hout) (by decide)

theorem s4Flush_keeps_accumulatorInv {s t : State} (h : s.accumulatorInv) (ht : exec .s4Flush s = .next t) :
    t.accumulatorInv := by
  obtain ⟨hwire, hfits, -⟩ := h
  obtain ⟨m, hflush, -⟩ := BitWriter.flush_stores (s.accumulatorFits_iff.mp hfits)
  obtain rfl := Host.Outcome.next.inj ((exec_s4Flush_of_flush hflush).symm.trans ht)
  exact State.accumulatorInv_of_clear (by simpa [State.flushed] using hwire) ⟨rfl, rfl, rfl, rfl⟩

/-- Every micro-operation keeps the accumulator's invariant in a state whose UPC names it. -/
theorem microOp_keeps_accumulatorInv {i : Instr} {s t : State} (he : encode i = upcWord s.upc) (h : s.accumulatorInv)
    (ht : exec i s = .next t) : t.accumulatorInv := by
  have hleaves : ∀ {u}, LeavesAccumulator i → encode i = upcWord u → inHeaderPhase u = false → u ≠ Upc.faulted →
      t.accumulatorInv := fun hi hu hout hne => by
    obtain ⟨t', ht', hr⟩ := hi s
    obtain rfl := Host.Outcome.next.inj (ht'.symm.trans ht)
    obtain rfl := upcWord_injective (he.symm.trans hu)
    exact State.accumulatorInv_of_outside h hr hout hne
  cases i with
  | idle | faulted => exact Host.Outcome.next.inj ht ▸ State.accumulatorInv_hostTurn h
  | s4Prefix | s4Blkhdr | s4Counts | s4Cllens | s4Seq => exact State.accumulatorInv_of_fieldsOf h rfl rfl ht
  | s4Flush => exact s4Flush_keeps_accumulatorInv h ht
  | xReset =>
    obtain ⟨hwire, -⟩ := h
    obtain rfl := Host.Outcome.next.inj ht
    exact State.accumulatorInv_of_clear hwire ⟨rfl, rfl, rfl, rfl⟩
  | check => exact hleaves leavesAccumulator_check rfl rfl (by decide)
  | xClose | s4Tokenize | s6Fatal => exact hleaves (fun _ => ⟨_, rfl, rfl⟩) rfl rfl (by decide)
  | xReadall => exact hleaves leavesAccumulator_xReadall rfl rfl (by decide)
  | s1Select => exact hleaves leavesAccumulator_s1Select rfl rfl (by decide)
  | s2Stat => exact hleaves leavesAccumulator_s2Stat rfl rfl (by decide)
  | s3Eob => exact hleaves leavesAccumulator_s3Eob rfl rfl (by decide)
  | s3HgenLl => exact hleaves leavesAccumulator_s3HgenLl rfl rfl (by decide)
  | s3HgenD => exact hleaves leavesAccumulator_s3HgenD rfl rfl (by decide)
  | s3CanonLl => exact hleaves leavesAccumulator_s3CanonLl rfl rfl (by decide)
  | s3CanonD => exact hleaves leavesAccumulator_s3CanonD rfl rfl (by decide)
  | s4HgenCl => exact hleaves leavesAccumulator_s4HgenCl rfl rfl (by decide)
  | s4CanonCl => exact hleaves leavesAccumulator_s4CanonCl rfl rfl (by decide)
  | s5Encode => exact hleaves leavesAccumulator_s5Encode rfl rfl (by decide)
  | s6Interpret => exact hleaves leavesAccumulator_s6Interpret rfl rfl (by decide)
  | s6EmitCarry => exact hleaves leavesAccumulator_s6EmitCarry rfl rfl (by decide)
  | s6EmitAll => exact hleaves leavesAccumulator_s6EmitAll rfl rfl (by decide)
  | s6Stored => exact hleaves leavesAccumulator_s6Stored rfl rfl (by decide)
  | s7Update => exact hleaves leavesAccumulator_s7Update rfl rfl (by decide)
  | zStored => exact hleaves leavesAccumulator_zStored rfl rfl (by decide)
  | reset | writeBlock _ _ | close | readAll | hdrDynamic _ | hdrStored _ | clLen _ | clRep16 _ | clRep17 _ | clRep18 _
  | packedEntry _ _ => cases (congrArg Encoded.fmt he : _ = Format.upc)

/-- Settles O52: outside the header phase the accumulator's registers stay or are cleared, and inside it each write keeps their
relations. -/
theorem stepKeepsAccumulatorInv : Obligations.StepKeepsAccumulatorInv := by
  intro s t h ht
  have ⟨hwire, _⟩ := h
  rcases step_cases s with ⟨w, i, hw, -⟩ | ⟨w, hw, -⟩ | ⟨i, s', -, hc, hs⟩ | ⟨i, -, -, hd, hs⟩ | ⟨e, -, -, -, hs⟩
  · simp [hwire] at hw
  · simp [hwire] at hw
  · obtain ⟨w, q, -, -, hd, rfl⟩ := fetchCommand_some s i s' hc
    have hexec := exec_of_decodeCommand hd { s with script := q }
    obtain rfl := Host.Outcome.next.inj ((hs.trans hexec).symm.trans ht)
    exact State.accumulatorInv_writeCmd _ (s := { s with script := q }) h
  · exact microOp_keeps_accumulatorInv (encode_of_decodeUpc hd) h (hs.symm.trans ht)
  · cases hs.symm.trans ht

end Sys2Proof.Machine

namespace Sys2Proof.Machine

/-! ### The spaces (R60, R72) -/

theorem State.setAecs_eq (s : State) (k : Bool) (a : Aecs) :
    s.setAecs k a = { s with aecs0 := (s.setAecs k a).aecs0, aecs1 := (s.setAecs k a).aecs1 } := by
  cases k <;> rfl

theorem State.setCur_eq (s : State) (a : Aecs) :
    s.setCur a = { s with aecs0 := (s.setCur a).aecs0, aecs1 := (s.setCur a).aecs1 } :=
  s.setAecs_eq s.tgl a

theorem inRegion_of_le {size a n : Nat} (h : a + n ≤ size) : inRegion size a n = true := decide_eq_true (.inr h)

theorem memReadBytes_of_le {size a n : Nat} (m : Memory) (h : a + n ≤ size) :
    memReadBytes size m a n = some (m.readBytes a n) := by
  rw [memReadBytes, inRegion_of_le h, if_pos rfl]

theorem memRead_byte_of_lt {size k : Nat} (m : Memory) (h : k < size) : memRead size m k 1 = some (m.read k).toNat := by
  rw [memRead, inRegion_of_le h, if_pos rfl]
  rfl

theorem State.readBlock_of_le {s : State} (h : s.work.n.toNat ≤ 32768) : s.readBlock = some s.block :=
  memReadBytes_of_le s.inMem ((Nat.zero_add _).trans_le h)

theorem Memory.readBytes_writeBytes {m : Memory} (hm : m.wf = true) (l : List Byte) {n : Nat} (h : n ≤ l.length) :
    (m.writeBytes 0 l).readBytes 0 n = l.take n := by
  refine List.ext_getElem (by simpa using h) fun k hk _ => ?_
  rw [Memory.length_readBytes] at hk
  have hread := m.read_writeBytes_inside 0 k l hm (hk.trans_le h)
  rw [Memory.getElem_readBytes, hread, List.getElem_take]

theorem Memory.readBytes_succ (m : Memory) (a n : Nat) : m.readBytes a (n + 1) = m.readBytes a n ++ [m.read (a + n)] := by
  induction n generalizing a with
  | zero => rfl
  | succ n ih =>
    rw [Memory.readBytes, ih, Memory.readBytes, List.cons_append, Nat.add_assoc, Nat.add_comm 1 n]

/-! ### The end-of-block counter (R215) -/

/-- A table of counters with the end-of-block symbol used (R215). -/
def Memory.withEob (m : Memory) : Memory := if m.entry 256 = 0 then m.setEntry 256 1 else m

theorem Memory.entry_withEob {m : Memory} (hm : m.wf = true) (i : Nat) :
    m.withEob.entry i = if i = 256 ∧ m.entry 256 = 0 then 1 else m.entry i := by
  unfold Memory.withEob
  by_cases hz : m.entry 256 = 0
  · rw [if_pos hz]
    by_cases hi : i = 256
    · rw [if_pos ⟨hi, hz⟩, hi, m.entry_setEntry_same 256 1 hm]
    · rw [if_neg fun h => hi h.1, m.entry_setEntry_other 256 i 1 hi]
  · rw [if_neg hz, if_neg fun h => hz h.2]

theorem exec_s3Eob (s : State) :
    exec .s3Eob s = .next ((s.setCur { s.cur with histLL := s.cur.histLL.withEob }).goto Upc.s3HgenLl) := by
  have hexec : exec .s3Eob s = execS3Eob s := rfl
  rw [hexec, execS3Eob, Memory.withEob]
  split
  · rfl
  · rw [show s.setCur { s.cur with histLL := s.cur.histLL } = s from s.setCur_cur]

theorem Memory.read_withEob_outside (m : Memory) {a : Nat} (h : a < 1024 ∨ 1028 ≤ a) : m.withEob.read a = m.read a := by
  unfold Memory.withEob
  split_ifs
  · exact m.read_setEntry_outside 1 h
  · rfl

/-! ### Jobs (R77, R262 to R265) -/

theorem State.afterJob_eq (s : State) (j : Job) (r : JobAnswer) :
    s.afterJob j r =
      { s with
        aecs0 := (s.afterJob j r).aecs0, aecs1 := (s.afterJob j r).aecs1, cr := r.record
        submitFailed := r.submitStatus.isSome, desc := some j, out := jobOut s.out j r } := by
  unfold State.afterJob
  rw [State.setAecs_eq]

theorem entry_jobTable_some {m : Memory} (hm : m.wf = true) {n i : Nat} (l : List (BitVec 32)) (hi : i < n) :
    (jobTable m n (some l)).entry i = l.getD i 0 := by
  rw [jobTable, Memory.entry_setEntries _ _ _ _ hm, length_padded, if_pos ⟨Nat.zero_le i, by omega⟩, Nat.sub_zero,
    getD_padded n i l hi]

/-- After a statistics job every counter is the answer's, whatever was there before (R77). -/
theorem Aecs.entry_histLL_afterJob {a : Aecs} (h : a.histLL.wf = true) (r : JobAnswer) {i : Nat} (hi : i < nLL) :
    (a.afterJob (r.written .stat)).histLL.entry i = (r.histLL.getD []).getD i 0 := by
  simp only [Aecs.afterJob, JobAnswer.written]
  exact entry_jobTable_some h _ hi

theorem Aecs.entry_histD_afterJob {a : Aecs} (h : a.histD.wf = true) (r : JobAnswer) {i : Nat} (hi : i < nD) :
    (a.afterJob (r.written .stat)).histD.entry i = (r.histD.getD []).getD i 0 := by
  simp only [Aecs.afterJob, JobAnswer.written]
  exact entry_jobTable_some h _ hi

theorem State.cur_afterJob {s : State} {j : Job} (r : JobAnswer) (hj : j.aecs = s.tgl) :
    (s.afterJob j r).cur = s.cur.afterJob (r.written j.kind) := by
  have htgl : (s.afterJob j r).tgl = s.tgl := by rw [s.afterJob_eq]
  rw [State.cur, State.cur, htgl, ← hj, s.afterJob_aecs]

theorem State.isSuccess_afterJob (s : State) (j : Job) (r : JobAnswer) :
    (s.afterJob j r).isSuccess = (!r.submitStatus.isSome && decide (r.record.status = s.par.success)) := by
  rw [s.afterJob_eq]
  rfl

/-- After an encode job OUT holds the answer's bytes, as far as they count (R265). -/
theorem readBytes_jobOut {m : Memory} (hm : m.wf = true) {j : Job} (hj : j.out = some .out) (r : JobAnswer) :
    (jobOut m j r).readBytes 0 (min j.outCap r.cr.produced.toNat) =
      (jobOutput j.outCap r).take (min j.outCap r.cr.produced.toNat) := by
  have hout : jobOut m j r = m.writeBytes 0 (jobOutput j.outCap r) := by rw [jobOut, hj]
  rw [hout, Memory.readBytes_writeBytes hm]
  simp only [jobOutput, length_padded]
  omega

theorem JobAnswer.record_produced (r : JobAnswer) : r.record.produced = r.cr.produced := by
  rcases r.record_cases with ⟨-, h⟩ | ⟨st, -, h⟩ <;> rw [h]

theorem length_jobOutput_le (cap : Nat) (r : JobAnswer) : (jobOutput cap r).length ≤ cap := by
  simp [jobOutput]

theorem read_jobOut_inside {m : Memory} (hm : m.wf = true) {j : Job} (hj : j.out = some .out) {r : JobAnswer} {k : Nat}
    (hcap : r.cr.produced.toNat ≤ j.outCap) (hk : k < r.cr.produced.toNat) : (jobOut m j r).read k = r.out.getD k 0 := by
  have hout : jobOut m j r = m.writeBytes 0 (jobOutput j.outCap r) := by rw [jobOut, hj]
  have hlen : k < (jobOutput j.outCap r).length := by
    rw [jobOutput, length_padded]
    omega
  have hread := m.read_writeBytes_inside 0 k _ hm hlen
  rw [Nat.zero_add] at hread
  rw [hout, hread]
  simp only [jobOutput, padded, List.getElem_map, List.getElem_range]

theorem read_jobOut_outside (m : Memory) {j : Job} (hj : j.out = some .out) (r : JobAnswer) {a : Nat} (ha : j.outCap ≤ a) :
    (jobOut m j r).read a = m.read a := by
  have hout : jobOut m j r = m.writeBytes 0 (jobOutput j.outCap r) := by rw [jobOut, hj]
  have hlen := length_jobOutput_le j.outCap r
  rw [hout, m.read_writeBytes_outside _ _ _ (by omega)]

/-! ### Steps and runs -/

theorem step_eq_exec_of_upc {s : State} {u : BitVec 8} {i : Instr} (hwire : s.wire = none) (hu : s.upc = u) (hidle : u ≠ Upc.idle)
    (hd : decodeUpc u = .ok i) : step s = exec i s := by
  subst hu
  exact step_eq_exec hwire hidle hd

/-- At IDLE the step is the host's turn, the write of a legal command too. -/
theorem step_of_idle {s : State} (hwire : s.wire = none) (hu : s.upc = Upc.idle) : step s = .next s.hostTurn := by
  rcases step_cases s with ⟨w, i, hw, -⟩ | ⟨w, hw, -⟩ | ⟨i, s', -, hc, hs⟩ | ⟨i, -, -, hd, hs⟩ | ⟨e, -, -, hd, -⟩
  · simp [hwire] at hw
  · simp [hwire] at hw
  · obtain ⟨w, q, -, hq, hd, rfl⟩ := fetchCommand_some s i s' hc
    have hturn : s.hostTurn = ({ s with script := q } : State).writeCmd w := by rw [State.hostTurn, hq]; rfl
    rw [hs, exec_of_decodeCommand hd, encode_of_decodeCommand hd, hturn]
  · rw [hu] at hd
    cases hd
    exact hs
  · rw [hu] at hd
    cases hd

theorem step_of_faulted {s : State} (hwire : s.wire = none) (hu : s.upc = Upc.faulted) : step s = .next s.hostTurn :=
  step_eq_exec (i := .faulted) hwire (hu ▸ by decide) (hu ▸ rfl)

/-- One step of a run. -/
theorem run_succ {s t : State} (k : Nat) (h : step s = .next t) :
    Host.Core.run core (k + 1) s = Host.Core.run core k t := by
  have hcore : core.step s = .next t := h
  simp only [Host.Core.run, hcore]

/-- A run of one step or more has a first step. -/
theorem exists_step_of_run {s a : State} {k : Nat} (h : Host.Core.run core (k + 1) s = .next a) : ∃ t, step s = .next t := by
  have hcore : core.step s = step s := rfl
  cases hs : step s with
  | next t => exact ⟨t, rfl⟩
  | fault r => simp [Host.Core.run, hcore, hs] at h
  | refused r => simp [Host.Core.run, hcore, hs] at h

/-! ### CHECK's tests (R211, R241, R242) -/

theorem State.streamTests_error {s : State} {refused : Bool} {op : CheckedOp} {c : ErrClass}
    (h : s.streamTests refused op = .error c) : c = .state := by
  unfold State.streamTests at h
  split_ifs at h <;> exact (Except.error.inj h).symm

/-- What CHECK's tests answer: no device, an illegal word, or the tests of the command. -/
theorem State.checkCommand_cases (s : State) :
    s.checkCommand = .error .config ∨ s.checkCommand = .ok .reset ∨
      s.checkCommand = s.streamTests s.closeRefused .close ∨ s.checkCommand = s.streamTests s.blockRefused .readAll ∨
      (cmdOp s.cmd = 2#4 ∧
        s.checkCommand =
          s.streamTests s.blockRefused (.block (cmdFinal s.cmd) (cmdLen s.cmd)) >>= fun op =>
            if (cmdLen s.cmd).toNat > blockMax then .error .size else .ok op) := by
  cases hn : s.nodev with
  | true => exact .inl (State.checkCommand_nodev hn)
  | false =>
    cases hd : decodeCommand s.cmd with
    | error e => exact .inl (State.checkCommand_illegal hn hd)
    | ok i =>
      rcases decodeCommand_ok_cases hd with ⟨-, rfl, -⟩ | ⟨hop, rfl⟩ | ⟨-, rfl, -⟩ | ⟨-, rfl, -⟩
      · exact .inr (.inl (State.checkCommand_reset hn hd))
      · exact .inr (.inr (.inr (.inr ⟨hop, State.checkCommand_writeBlock hn hd⟩)))
      · exact .inr (.inr (.inl (State.checkCommand_close hn hd)))
      · exact .inr (.inr (.inr (.inl (State.checkCommand_readAll hn hd))))

end Sys2Proof.Machine

namespace Sys2Proof.Machine

/-! ### Errors, the sink and the end of a block (R333, R336, R228) -/

theorem State.abandonCount_eq (s : State) : s.abandonCount = if cmdOp s.cmd = 4#4 then s.rtotal else 0 := by
  simp [State.abandonCount, State.inReadAll]

/-- The raise of a class that latches nothing. -/
theorem State.raise_of_not_latches (s : State) {c : ErrClass} (h : c.latches = false) (n : BitVec 64) :
    s.raise c n = { s with eclass := c.code, hwstatus := 0, hwerr := 0, count := n, upc := Upc.idle } := by
  have hc : c ≠ .hw := by
    rintro rfl
    cases h
  simp only [State.raise, State.setResult, State.goto, h, hc, if_false, Bool.or_false]

theorem State.raiseBlock_hw (s : State) :
    s.raiseBlock .hw =
      { s with
        err := true, eclass := 3, hwstatus := s.cr.status, hwerr := s.cr.error
        count := if cmdOp s.cmd = 4#4 then s.rtotal else 0, upc := Upc.idle } := by
  rw [State.raiseBlock, s.abandonCount_eq]
  simp only [State.raise, ErrClass.latches, Bool.or_true]
  rfl

theorem State.raiseBlock_size (s : State) :
    s.raiseBlock .size =
      { s with
        eclass := 2, hwstatus := 0, hwerr := 0, count := if cmdOp s.cmd = 4#4 then s.rtotal else 0, upc := Upc.idle } := by
  rw [State.raiseBlock, s.abandonCount_eq, s.raise_of_not_latches rfl]
  rfl

/-- A sink that accepts has every byte, and what follows runs. -/
theorem State.emit_of_accepts {s : State} (h : s.sinkAccepts = true) (bytes : List Byte) (next : State → State) :
    s.emit bytes next = next { s with sink := s.sink ++ bytes, sinkQ := s.sinkQ.tail } := by
  rcases s.emit_cases bytes next with ⟨q, he, hq⟩ | ⟨k, q, hq, -⟩
  · have htail : s.sinkQ.tail = q := by rcases hq with ⟨hs, rfl⟩ | hs <;> rw [hs] <;> rfl
    rw [he, htail]
  · simp [State.sinkAccepts, hq] at h

theorem State.endBlock_of_writeBlock {s : State} (h : cmdOp s.cmd ≠ 4#4) (n : BitVec 64) :
    s.endBlock n = { s with fin := s.work.bf, eclass := 0, hwstatus := 0, hwerr := 0, count := n, upc := Upc.idle } := by
  have hread : ¬s.inReadAll = true := by simpa [State.inReadAll] using h
  rw [State.endBlock, if_neg hread]
  rfl

theorem State.endBlock_of_readAll {s : State} (h : cmdOp s.cmd = 4#4) (n : BitVec 64) :
    s.endBlock n = { s with fin := s.work.bf, rtotal := s.rtotal + n, upc := Upc.xReadall } := by
  have hread : s.inReadAll = true := by simpa [State.inReadAll] using h
  rw [State.endBlock, if_pos hread]

/-! ### CHECK (R211, R241, R242) -/

/-- A command that CHECK ends with a class: nothing but the result registers changes. -/
def State.refused (s : State) (c : BitVec 4) : State :=
  { s with eclass := c, hwstatus := 0, hwerr := 0, count := 0, upc := Upc.idle }

/-- What CHECK does with the answer of its tests. -/
def State.checked (s : State) : Except ErrClass CheckedOp → State
  | .error c => s.raise c 0
  | .ok .reset => s.goto Upc.xReset
  | .ok .close => s.goto Upc.xClose
  | .ok .readAll =>
    { s with rtotal := 0, work := { s.work with bf := cmdFinal s.cmd, n := cmdLen s.cmd }, upc := Upc.xReadall }
  | .ok (.block final len) => s.startBlock final len

theorem exec_check (s : State) : exec .check s = .next (s.checked s.checkCommand) := by
  show execCheck s = _
  unfold execCheck
  cases s.checkCommand with
  | error c => rfl
  | ok op => cases op <;> rfl

theorem State.checked_error (s : State) {c : ErrClass} (h : c.latches = false) : s.checked (.error c) = s.refused c.code :=
  s.raise_of_not_latches h 0

theorem State.checked_streamTests (s : State) (refused : Bool) (op : CheckedOp) :
    s.checked (s.streamTests refused op) =
      if s.err = true then s.refused 4 else if refused = true then s.refused 4 else s.checked (.ok op) := by
  unfold State.streamTests
  split_ifs
  · exact s.checked_error rfl
  · exact s.checked_error rfl
  · rfl

theorem exec_check_of_illegal {s : State} (h : ∃ e, decodeCommand s.cmd = .error e) : exec .check s = .next (s.refused 1) := by
  obtain ⟨e, he⟩ := h
  have hc : s.checkCommand = .error .config := by
    cases hn : s.nodev with
    | true => exact State.checkCommand_nodev hn
    | false => exact State.checkCommand_illegal hn he
  rw [exec_check, hc, s.checked_error rfl]
  rfl

theorem exec_check_of_nodev {s : State} (h : s.nodev = true) : exec .check s = .next (s.refused 1) := by
  rw [exec_check, State.checkCommand_nodev h, s.checked_error rfl]
  rfl

theorem State.blockRefused_iff (s : State) : s.blockRefused = true ↔ s.bound = false ∨ s.closed = true ∨ s.fin = true := by
  simp [State.blockRefused, or_assoc]

theorem State.closeRefused_iff (s : State) : s.closeRefused = true ↔ (s.bound = false ∨ s.closed = true) ∨ s.fin = false := by
  simp [State.closeRefused]

theorem exec_check_of_streamTests {s : State} {refused : Bool} {op : CheckedOp}
    (h : s.checkCommand = s.streamTests refused op) :
    exec .check s =
      .next (if s.err = true then s.refused 4 else if refused = true then s.refused 4 else s.checked (.ok op)) := by
  rw [exec_check, h, s.checked_streamTests]

theorem exec_check_writeBlock {s : State} {final : Bool} {len : BitVec 16} (hn : s.nodev = false)
    (hd : decodeCommand s.cmd = .ok (.writeBlock final len)) :
    exec .check s =
      .next
        (if s.err = true then s.refused 4
        else if s.blockRefused = true then s.refused 4
        else if len.toNat > 32768 then s.refused 2
        else s.startBlock final len) := by
  rw [exec_check, State.checkCommand_writeBlock hn hd]
  unfold State.streamTests
  by_cases he : s.err = true
  · rw [if_pos he, if_pos he]
    exact congrArg _ (s.checked_error rfl)
  by_cases hb : s.blockRefused = true
  · rw [if_neg he, if_neg he, if_pos hb, if_pos hb]
    exact congrArg _ (s.checked_error rfl)
  rw [if_neg he, if_neg he, if_neg hb, if_neg hb]
  by_cases hl : len.toNat > 32768
  · rw [if_pos hl]
    simp only [bind, Except.bind]
    rw [if_pos hl]
    exact congrArg _ (s.checked_error rfl)
  · rw [if_neg hl]
    simp only [bind, Except.bind]
    rw [if_neg hl]
    rfl

/-- Settles O15: the tests in their order. -/
theorem checkWriteBlock : Obligations.CheckWriteBlock := by
  refine fun s => ⟨exec_check_of_illegal, fun final len hd => ?_⟩
  by_cases hn : s.nodev = true
  · rw [if_pos hn]
    exact exec_check_of_nodev hn
  · have hzero : (len = 0#16) = (len.toNat = 0) := propext BitVec.toNat_inj.symm
    rw [if_neg hn]
    simp only [exec_check_writeBlock (Bool.eq_false_of_not_eq_true hn) hd, s.blockRefused_iff, State.startBlock, hzero]
    rfl

/-- Settles O16: CHECK's tests in their order; once CLOSED they refuse every command but RESET. -/
theorem closeCommand : Obligations.CloseCommand := by
  refine fun s => ⟨exec_check_of_illegal, fun hd => ?_, rfl, fun hclosed hn i hd => ?_⟩
  · by_cases hn : s.nodev = true
    · rw [if_pos hn]
      exact exec_check_of_nodev hn
    · rw [if_neg hn, exec_check_of_streamTests (State.checkCommand_close (Bool.eq_false_of_not_eq_true hn) hd)]
      simp only [s.closeRefused_iff, ite_or]
      rfl
  · have hblock : s.blockRefused = true := s.blockRefused_iff.mpr (.inr (.inl hclosed))
    have hclose : s.closeRefused = true := s.closeRefused_iff.mpr (.inl (.inr hclosed))
    rcases decodeCommand_ok_cases hd with ⟨-, rfl, -⟩ | ⟨-, rfl⟩ | ⟨-, rfl, -⟩ | ⟨-, rfl, -⟩
    · rw [exec_check, State.checkCommand_reset hn hd]
      rfl
    · rw [exec_check_writeBlock hn hd, if_pos hblock, ite_self]
      rfl
    · rw [exec_check_of_streamTests (State.checkCommand_close hn hd), if_pos hclose, ite_self]
      rfl
    · rw [exec_check_of_streamTests (State.checkCommand_readAll hn hd), if_pos hblock, ite_self]
      rfl

/-- Settles O17: only CHECK's test of the device stands before X.RESET. -/
theorem resetCommand : Obligations.ResetCommand := by
  refine fun s => ⟨fun hd => ?_, _, rfl, rfl⟩
  by_cases hn : s.nodev = true
  · rw [if_pos hn]
    exact exec_check_of_nodev hn
  · rw [if_neg hn, exec_check, State.checkCommand_reset (Bool.eq_false_of_not_eq_true hn) hd]
    rfl

/-! ### READ_ALL's loop head (R242) -/

theorem exec_check_readAll {s : State} (hd : decodeCommand s.cmd = .ok .readAll) :
    exec .check s =
      .next
        (if s.nodev = true then s.refused 1
        else if s.err = true then s.refused 4
        else if s.bound = false ∨ s.closed = true ∨ s.fin = true then s.refused 4
        else { s with rtotal := 0, work := { s.work with bf := false, n := 0 }, upc := Upc.xReadall }) := by
  by_cases hn : s.nodev = true
  · rw [if_pos hn]
    exact exec_check_of_nodev hn
  rcases decodeCommand_ok_cases hd with ⟨-, hi, -⟩ | ⟨-, hi⟩ | ⟨-, hi, -⟩ | ⟨-, -, hfinal, hlen⟩
  · cases hi
  · cases hi
  · cases hi
  · rw [if_neg hn, exec_check_of_streamTests (State.checkCommand_readAll (Bool.eq_false_of_not_eq_true hn) hd), State.checked,
      hfinal, hlen]
    simp only [s.blockRefused_iff]
    rfl

/-- The next micro-operation of a source's block. -/
theorem State.startSourceBlock_of_ne {s : State} {held : List Byte} (h : held.length ≠ 0) (rest : Source) (final : Bool) :
    s.startSourceBlock held rest final =
      { s with
        inMem := s.inMem.writeBytes 0 held, src := rest
        work := { s.work with bf := final, n := BitVec.ofNat 16 held.length }, upc := Upc.s1Select } := by
  rw [State.startSourceBlock, if_neg h]

theorem exec_xReadall_of_more {s : State} (hbf : s.work.bf = false) (hlen : 32768 < s.src.bytes.length) :
    exec .xReadall s =
      .next (s.startSourceBlock (s.src.bytes.take 32768) { s.src with bytes := s.src.bytes.drop 32768 } false) := by
  show execXReadall s = _
  rw [execXReadall, if_neg (by rw [hbf]; decide)]
  exact congrArg _ (if_pos hlen)

/-- What the loop head does when no byte follows the block held. -/
def State.readLast (s : State) : SrcStatus → State
  | .pending => s
  | .ended => s.startSourceBlock s.src.bytes ⟨[], .ended⟩ (decide (s.src.bytes.length < 32768))
  | .failed => { s with inMem := s.inMem.writeBytes 0 s.src.bytes, src := ⟨[], .failed⟩ }.raise .src s.rtotal

theorem exec_xReadall_of_no_more {s : State} (hbf : s.work.bf = false) (hlen : s.src.bytes.length ≤ 32768) :
    exec .xReadall s = .next (s.readLast s.src.status) := by
  show execXReadall s = _
  rw [execXReadall, if_neg (by rw [hbf]; decide)]
  refine congrArg _ ((if_neg (Nat.not_lt.mpr hlen)).trans ?_)
  rw [List.take_of_length_le hlen]
  cases s.src.status <;> rfl

/-- Settles O18: the tests of CHECK, then the loop head case by case. -/
theorem readAllCommand : Obligations.ReadAllCommand := by
  intro s refuse held start
  have hheld : s.src.bytes.length ≤ 32768 → held = s.src.bytes := List.take_of_length_le
  refine ⟨exec_check_readAll, fun hbf => congrArg _ (if_pos hbf), fun hbf hlen => ?_, fun hbf hlen hend => ?_,
    fun hbf hlen hend => ?_, fun hbf hlen hend => ?_, fun hbf hlen hend => ?_⟩
  · have hne : (s.src.bytes.take 32768).length ≠ 0 := by
      rw [List.length_take_of_le hlen.le]
      decide
    rw [exec_xReadall_of_more hbf hlen, State.startSourceBlock_of_ne hne]
  · have hne : s.src.bytes.length ≠ 0 := by omega
    rw [exec_xReadall_of_no_more hbf hlen.le, hend, State.readLast, State.startSourceBlock_of_ne hne,
      decide_eq_false hlen.not_lt, ← hheld hlen.le]
  · rw [exec_xReadall_of_no_more hbf hlen.le, hend, State.readLast, decide_eq_true hlen, ← hheld hlen.le]
    rfl
  · rw [exec_xReadall_of_no_more hbf hlen, hend, State.readLast, ← hheld hlen]
    exact congrArg _ (State.raise_of_not_latches _ rfl _)
  · rw [exec_xReadall_of_no_more hbf hlen, hend]
    rfl

/-- Settles O20: the AECS in use is the old one with new scratch. -/
theorem selectResetsScratch : Obligations.SelectResetsScratch := by
  intro s
  have hcur := s.cur_setCur { s.cur with scratch := s.par.scratchInit }
  exact ⟨_, rfl, rfl, (congrArg Aecs.scratch hcur :), (congrArg Aecs.histLL hcur :), (congrArg Aecs.histD hcur :),
    (congrArg Aecs.hdr hcur :), (congrArg Aecs.hdrBits hcur :), s.other_setCur _⟩

/-! ### Steps 6 and 7 (R221 to R228) -/

theorem State.isSuccess_iff (s : State) : s.isSuccess = true ↔ s.submitFailed = false ∧ s.cr.status = s.par.success := by
  simp [State.isSuccess]

/-- Settles O39: the three classes of a completion. -/
theorem interpretCompletion : Obligations.InterpretCompletion := by
  intro s
  show execS6Interpret s = _
  rw [execS6Interpret]
  rcases s.completion_cases with ⟨hf, hs, hsucc, -⟩ | ⟨hf, hs, ho, hsucc, hover⟩ | ⟨hfatal, hsucc, hover⟩
  · rw [if_pos hsucc, if_neg (Bool.not_eq_true _ |>.mpr hf), if_pos hs]
    rfl
  · rw [if_neg (Bool.not_eq_true _ |>.mpr hsucc), if_pos hover, if_neg (Bool.not_eq_true _ |>.mpr hf), if_neg hs, if_pos ho]
    rfl
  · rw [if_neg (Bool.not_eq_true _ |>.mpr hsucc), if_neg (Bool.not_eq_true _ |>.mpr hover)]
    rcases hfatal with hf | ⟨hs, ho⟩
    · rw [if_pos hf]
      rfl
    · rw [if_neg hs, if_neg ho, ite_self]
      rfl

theorem exec_s6EmitCarry_of_accepts {s : State} (hp : 1 ≤ s.cr.produced.toNat) (hcap : s.cr.produced.toNat ≤ s.par.outCap)
    (h : s.sinkAccepts = true) :
    exec .s6EmitCarry s =
      .next
        { s with
          sink := s.sink ++ s.out.readBytes 0 (s.cr.produced.toNat - 1), sinkQ := s.sinkQ.tail
          cb := BitVec.ofNat 7 ((s.out.read (s.cr.produced.toNat - 1)).toNat % 2 ^ s.cr.bitrem.toNat), cbn := s.cr.bitrem
          upc := Upc.s7Update } := by
  show execS6EmitCarry s = _
  rw [execS6EmitCarry, if_neg (by omega), memReadBytes_of_le _ (by omega)]
  simp only [State.emit_of_accepts h, State.holdCarry]
  rw [memRead_byte_of_lt _ (by omega)]

/-- Settles O40: no byte produced, or the sink takes all but the last. -/
theorem emitCarry : Obligations.EmitCarry :=
  fun _ => ⟨fun hp => congrArg _ (if_pos hp), exec_s6EmitCarry_of_accepts⟩

/-- Settles O41: OUT is readable up to `out_cap`, and the sink accepts. -/
theorem emitAll : Obligations.EmitAll := by
  intro s hcap h
  show execS6EmitAll s = _
  rw [execS6EmitAll, memReadBytes_of_le _ (by omega)]
  simp only [State.emit_of_accepts h]
  rfl

/-- Settles O42: IN holds the block, and the sink accepts. -/
theorem storedFallback : Obligations.StoredFallback := by
  refine fun s hn h => ⟨?_, fun b => ?_⟩
  · show execS6Stored s = _
    rw [execS6Stored, State.readBlock_of_le hn]
    simp only [State.emit_of_accepts h]
    rfl
  · show execHdrStored b s = _
    rw [execHdrStored, State.readBlock_of_le hn]
    simp only [State.emit_of_accepts h]
    rfl

/-- Settles O44: the raise of E_HW. -/
theorem fatalStatus : Obligations.FatalStatus := fun s => congrArg _ s.raiseBlock_hw

/-- S7.UPDATE with the checksum named: the completion record's, or the one computed from the block. -/
def State.nextCrc (s : State) : BitVec 32 := if s.isSuccess = true then s.cr.crc else crc32upd s.crc s.block

theorem exec_s7Update {s : State} (hn : s.work.n.toNat ≤ 32768) :
    exec .s7Update s = .next ({ s with crc := s.nextCrc, tgl := !s.tgl }.endBlock (s.work.n.setWidth 64)) := by
  show execS7Update s = _
  rw [execS7Update, State.readBlock_of_le hn, State.nextCrc]
  split_ifs <;> rfl

/-- Settles O45: the checksum first, then the end of the block by the command. -/
theorem updateEndsTheBlock : Obligations.UpdateEndsTheBlock := by
  intro s hn crc
  have hcrc : s.nextCrc = crc := by
    simp only [State.nextCrc, s.isSuccess_iff]
    rfl
  let u : State := { s with crc := crc, tgl := !s.tgl }
  rw [exec_s7Update hn, hcrc]
  exact ⟨fun h => congrArg _ (State.endBlock_of_writeBlock (s := u) h _),
    fun h => congrArg _ (State.endBlock_of_readAll (s := u) h _)⟩

/-- Settles O46: the append, then the end of the block by the command. -/
theorem zeroLengthBlock : Obligations.ZeroLengthBlock := by
  intro s h
  let u : State := { s with sink := s.sink ++ stored s.cb s.cbn s.work.bf [], sinkQ := s.sinkQ.tail, cb := 0, cbn := 0 }
  have hexec : exec .zStored s = .next (u.endBlock 0) := congrArg _ (State.emit_of_accepts h _ _)
  have htotal : u.rtotal + 0 = s.rtotal := BitVec.add_zero _
  refine ⟨fun hc => ?_, fun hc => ?_⟩
  · rw [hexec, State.endBlock_of_writeBlock (s := u) hc]
  · rw [hexec, State.endBlock_of_readAll (s := u) hc, htotal]

end Sys2Proof.Machine

namespace Sys2Proof.Machine

/-! ### The code lengths kept in the working arrays (R216) -/

theorem usedCount_le_length (freq : List Nat) : usedCount freq ≤ freq.length := List.countP_le_length

/-- With two or more used symbols, and no more than fit, an array wide enough for the cap keeps every length of HUFFLEN. -/
theorem arrayNat_toArray_hufflen (choices : List HuffChoice) {freq : List Nat} {L w n : Nat} (hm : 2 ≤ usedCount freq)
    (hn : freq.length = n) (hcap : n ≤ 2 ^ L) (hw : L < 2 ^ w) :
    arrayNat n (toArray w (hufflen choices freq L)) = hufflen choices freq L := by
  obtain ⟨-, hcontract⟩ := hufflenMeetsContract choices freq L
  obtain ⟨hlen, -, hmax, -⟩ := hcontract hm (((usedCount_le_length freq).trans_eq hn).trans hcap)
  exact arrayNat_toArray (hlen.trans hn) fun v hv => (hmax v hv).trans_lt hw

/-- Kraft equality of the lengths that such an array holds. -/
theorem kraftSum_arrayNat_hufflen (choices : List HuffChoice) {freq : List Nat} {L w n : Nat} (hm : 2 ≤ usedCount freq)
    (hn : freq.length = n) (hcap : n ≤ 2 ^ L) (hw : L < 2 ^ w) :
    kraftSum L (arrayNat n (toArray w (hufflen choices freq L))) = 2 ^ L := by
  obtain ⟨-, hcontract⟩ := hufflenMeetsContract choices freq L
  obtain ⟨-, -, -, hkraft⟩ := hcontract hm (((usedCount_le_length freq).trans_eq hn).trans hcap)
  rw [arrayNat_toArray_hufflen choices hm hn hcap hw, hkraft]

theorem freq_eq_zero_of_usedCount {freq : List Nat} (h : usedCount freq = 0) : ∀ f ∈ freq, f = 0 := by
  simpa [usedCount, List.countP_eq_zero] using h

/-- A code with a used symbol has a length that is not 0: no phantom code is made. -/
theorem hufflen_not_all_zero (choices : List HuffChoice) {freq : List Nat} {L : Nat} (hm : 2 ≤ usedCount freq)
    (hcap : usedCount freq ≤ 2 ^ L) : ¬∀ x ∈ hufflen choices freq L, x = 0 := by
  obtain ⟨-, hcontract⟩ := hufflenMeetsContract choices freq L
  obtain ⟨-, -, -, hkraft⟩ := hcontract hm hcap
  intro hzero
  have hempty : (hufflen choices freq L).filter (0 < ·) = [] :=
    List.filter_eq_nil_iff.mpr fun x hx => by simp [hzero x hx]
  rw [kraftSum, hempty] at hkraft
  exact absurd hkraft.symm (Nat.two_pow_pos L).ne'

/-- HUFFLEN of no used symbol: every length is 0. -/
theorem hufflen_of_unused (choices : List HuffChoice) {freq : List Nat} (L : Nat) (h : usedCount freq = 0) :
    hufflen choices freq L = List.replicate freq.length 0 := by
  rw [hufflen_of_usedCount_le_one choices L (h.trans_le (by decide))]
  refine List.eq_replicate_iff.mpr ⟨List.length_map _, List.forall_mem_map.mpr fun f hf => ?_⟩
  rw [if_pos (freq_eq_zero_of_usedCount h f hf)]

/-- Settles O25: HUFFLEN's contract, and that 4 and 3 bits hold every length up to the caps 15 and 7. -/
theorem codeLengthsAreComplete : Obligations.CodeLengthsAreComplete := by
  intro s t
  obtain ⟨hll, hd, hcl⟩ := codeLengthMicroOperations s
  have hused : usedCount s.freqD ≤ 2 ^ 15 := ((usedCount_le_length _).trans_eq (length_freqD s)).trans (by decide)
  rw [hll, hd, hcl]
  refine ⟨fun ht hm => ?_, fun ht hm => ?_, fun ht hm => ?_, fun ht hm => ?_⟩ <;> cases ht
  · exact kraftSum_arrayNat_hufflen _ hm (length_freqLL s) (by decide) (by decide)
  · simp only [if_neg (hufflen_not_all_zero s.par.huffChoices hm hused)]
    exact kraftSum_arrayNat_hufflen _ hm (length_freqD s) (by decide) (by decide)
  · simp only [hufflen_of_unused s.par.huffChoices 15 hm, length_freqD]
    decide
  · exact kraftSum_arrayNat_hufflen _ hm (length_arrayNat 19 _) (by decide) (by decide)

/-! ### The end-of-block counter (R215) -/

/-- Settles O22: one entry of the table is written, or none. -/
theorem endOfBlockSymbolIsUsed : Obligations.EndOfBlockSymbolIsUsed := by
  intro s
  have hcur : ((s.setCur { s.cur with histLL := s.cur.histLL.withEob }).goto Upc.s3HgenLl).cur.histLL = s.cur.histLL.withEob :=
    (congrArg Aecs.histLL (s.cur_setCur _) :)
  refine ⟨_, exec_s3Eob s, ?_⟩
  rw [hcur]
  refine ⟨rfl, fun hmem => ?_, fun a ha => s.cur.histLL.read_withEob_outside ha⟩
  obtain ⟨hwf, -⟩ := State.wf_hist hmem
  rw [Memory.entry_withEob hwf]
  simp only [true_and]

/-! ### The running checksum (R244, R245) -/

theorem State.endBlock_crc (s : State) (n : BitVec 64) : (s.endBlock n).crc = s.crc := by
  rcases s.endBlock_cases n with ⟨-, h⟩ | ⟨-, h⟩
  · rw [h]
    rfl
  · rw [h]

theorem crc32upd_append (c : BitVec 32) (a b : List Byte) : crc32upd (crc32upd c a) b = crc32upd c (a ++ b) := by
  simp only [crc32upd, List.foldl_append, BitVec.xor_assoc, BitVec.xor_self, BitVec.xor_zero]

/-- Settles O50: both cases of the checksum continue the seed over the block. -/
theorem runningChecksum : Obligations.RunningChecksum := by
  refine ⟨fun s t hn hcrc ht => ?_, crc32upd_append⟩
  rw [exec_s7Update hn] at ht
  cases ht
  rw [State.endBlock_crc]
  show s.nextCrc = _
  by_cases hs : s.isSuccess = true
  · rw [State.nextCrc, if_pos hs, hcrc (s.isSuccess_iff.mp hs).2]
  · rw [State.nextCrc, if_neg hs]

/-! ### The bytes of a stored block (R230, R231) -/

theorem bytesLe_two (v : Nat) : bytesLe v 2 = [BitVec.ofNat 8 v, BitVec.ofNat 8 (v / 256)] := rfl

/-- The value of a stored block's header: BFINAL stands just above the Carried Bits. -/
theorem storedHeader_value (cb : BitVec 7) (cbn : BitVec 3) (bf : Bool) :
    (cb.toNat % 2 ^ cbn.toNat) ||| (bitNat bf <<< cbn.toNat) =
      cb.toNat % 2 ^ cbn.toNat + (if bf then 2 ^ cbn.toNat else 0) := by
  rw [Nat.or_comm, ← Nat.shiftLeft_add_eq_or_of_lt (Nat.mod_lt _ (Nat.two_pow_pos _)), Nat.add_comm, Nat.shiftLeft_eq]
  cases bf <;> simp

theorem ceilDiv8_header (cbn : BitVec 3) : ceilDiv8 (cbn.toNat + 3) = if cbn.toNat ≤ 5 then 1 else 2 := by
  revert cbn
  decide

theorem ofNat_complement {n : Nat} (h : n ≤ 65535) :
    BitVec.ofNat 8 (65535 - n) = ~~~BitVec.ofNat 8 n ∧
      BitVec.ofNat 8 ((65535 - n) / 256) = ~~~BitVec.ofNat 8 (n / 256) := by
  constructor <;> bv_omega

theorem length_storedHeader (cb : BitVec 7) (cbn : BitVec 3) (bf : Bool) :
    (storedHeader cb cbn bf).length = ceilDiv8 (cbn.toNat + 3) := length_bytesLe _ _

theorem length_stored (cb : BitVec 7) (cbn : BitVec 3) (bf : Bool) (data : List Byte) :
    (stored cb cbn bf data).length = ceilDiv8 (cbn.toNat + 3) + 4 + data.length := by
  simp only [stored, List.length_append, length_storedHeader, length_bytesLe]

/-- Settles O43: BFINAL above the Carried Bits is a sum, and NLEN is the bytewise complement of LEN. -/
theorem storedBlockBytes : Obligations.StoredBlockBytes := by
  refine fun cb cbn bf data hdata => ⟨?_, length_stored cb cbn bf data⟩
  obtain ⟨hlow, hhigh⟩ := ofNat_complement (hdata.trans (by decide : 32768 ≤ 65535))
  rw [stored, storedHeader, storedHeader_value, ceilDiv8_header, bytesLe_two data.length, bytesLe_two (65535 - _), hlow, hhigh]
  split_ifs <;> rfl

end Sys2Proof.Machine

namespace Sys2Proof.Machine

/-! ### Submit (R74, R261, R262) -/

section
variable {s : State} {j : Job} {fits : Nat → Bool} {done : State → State} {m : Nat} {q : List Nat} {r : JobAnswer}
  {q' : List JobAnswer}

theorem State.submit_of_unqueried (h : s.xferQ = []) : s.submit j fits done = s := by rw [State.submit, h]

theorem State.submit_of_unanswered (hx : s.xferQ = m :: q) (hm : fits m = true) (hj : s.jobQ = []) :
    s.submit j fits done = s := by
  simp only [State.submit, hx, hm, hj, if_true]

theorem State.submit_of_too_small (hx : s.xferQ = m :: q) (hm : fits m = false) :
    s.submit j fits done =
      { s with
        xferQ := q, maxxfer := BitVec.ofNat 32 m, eclass := 2, hwstatus := 0, hwerr := 0
        count := if cmdOp s.cmd = 4#4 then s.rtotal else 0, upc := Upc.idle } := by
  simp only [State.submit, hx, hm]
  exact State.raiseBlock_size _

/-- The state in which a submitted job has returned. -/
def State.submitted (s : State) (m : Nat) (q : List Nat) (r : JobAnswer) (q' : List JobAnswer) (j : Job) : State :=
  { s with xferQ := q, maxxfer := BitVec.ofNat 32 m, jobQ := q' }.afterJob j r

theorem State.submit_of_answered (hx : s.xferQ = m :: q) (hm : fits m = true) (hj : s.jobQ = r :: q') :
    s.submit j fits done = done (s.submitted m q r q' j) := by
  simp only [State.submit, hx, hm, hj, if_true]
  rfl

/-- A job in the AECS in use, field by field. -/
theorem State.submitted_eq (hj : j.aecs = s.tgl) :
    s.submitted m q r q' j =
      { s.setCur (s.cur.afterJob (r.written j.kind)) with
        xferQ := q, maxxfer := BitVec.ofNat 32 m, jobQ := q', cr := r.record, submitFailed := r.submitStatus.isSome
        desc := some j, out := jobOut s.out j r } := by
  unfold State.submitted State.afterJob State.setCur State.cur State.setAecs
  rw [hj]
  split_ifs <;> rfl

theorem State.cur_submitted (hj : j.aecs = s.tgl) :
    (s.submitted m q r q' j).cur = s.cur.afterJob (r.written j.kind) := by
  rw [State.submitted_eq hj]
  exact s.cur_setCur _

theorem State.isSuccess_submitted_iff :
    (s.submitted m q r q' j).isSuccess = true ↔ r.submitStatus = none ∧ r.cr.status = s.par.success := by
  rw [State.submitted, State.isSuccess_afterJob]
  rcases r.record_cases with ⟨hs, hr⟩ | ⟨st, hs, -⟩
  · simp [hs, hr]
  · simp [hs]
end

/-! ### The statistics job (R214) -/

theorem exec_s2Stat (s : State) :
    exec .s2Stat s =
      .next (s.submit s.statJob (fun m => decide (s.work.n.toNat ≤ m)) fun t =>
        if t.isSuccess then t.goto Upc.s3Eob else t.raiseBlock .hw) := rfl

/-- After the statistics job the AECS in use holds what the job left. -/
theorem State.cur_afterStat (s : State) (a : Aecs) (h : s.cur = a) :
    (if s.isSuccess = true then s.goto Upc.s3Eob else s.raiseBlock .hw).cur = a := by
  split_ifs
  · exact h
  · rw [s.raiseBlock_hw]
    exact h

/-- The statistics job's descriptor names no output buffer: OUT stays. -/
theorem State.submitted_statJob {s : State} {m : Nat} {q : List Nat} {r : JobAnswer} {q' : List JobAnswer} :
    s.submitted m q r q' s.statJob =
      { s.setCur (s.cur.afterJob (r.written .stat)) with
        xferQ := q, maxxfer := BitVec.ofNat 32 m, jobQ := q', cr := r.record, submitFailed := r.submitStatus.isSome
        desc := some s.statJob } := by
  have hout : jobOut s.out s.statJob r = (s.setCur (s.cur.afterJob (r.written .stat))).out := by
    rw [State.setCur_eq]
    rfl
  rw [State.submitted_eq rfl, hout]
  rfl

/-- Settles O21: the device does not answer, is too small, or runs the job. -/
theorem statisticsJob : Obligations.StatisticsJob := by
  intro s n
  refine ⟨fun hwait => ?_, fun m q hx => ⟨fun hm => ?_, fun hm r q' hj => ?_⟩⟩
  · rw [exec_s2Stat]
    rcases hwait with hx | ⟨hj, m, q, hx, hm⟩
    · rw [State.submit_of_unqueried hx]
    · rw [State.submit_of_unanswered hx (decide_eq_true hm) hj]
  · rw [exec_s2Stat, State.submit_of_too_small hx (decide_eq_false hm.not_ge)]
  · have hcur := State.cur_afterStat _ _ (State.cur_submitted (s := s) (j := s.statJob) (m := m) (q := q) (r := r) (q' := q') rfl)
    have hcount : (if cmdOp (s.submitted m q r q' s.statJob).cmd = 4#4 then (s.submitted m q r q' s.statJob).rtotal else 0) =
        if cmdOp s.cmd = 4#4 then s.rtotal else 0 := by
      rw [State.submitted, State.afterJob_eq]
    rw [exec_s2Stat, State.submit_of_answered hx (decide_eq_true hm) hj]
    refine ⟨_, rfl, ?_, fun hmem => ?_⟩
    · rw [hcur]
      intro cr u
      by_cases hsucc : r.submitStatus = none ∧ r.cr.status = s.par.success
      · rw [if_pos (State.isSuccess_submitted_iff.mpr hsucc), if_pos hsucc, State.submitted_statJob]
        rfl
      · rw [if_neg (mt State.isSuccess_submitted_iff.mp hsucc), if_neg hsucc, State.raiseBlock_hw, hcount, State.submitted_statJob]
        rfl
    · obtain ⟨hll, hd⟩ := State.wf_hist hmem
      rw [hcur]
      exact ⟨fun i hi => Aecs.entry_histLL_afterJob hll r hi, fun i hi => Aecs.entry_histD_afterJob hd r hi⟩

/-! ### The encode job (R220) -/

theorem exec_s5Encode (s : State) :
    exec .s5Encode s =
      .next (s.submit s.encodeJob (fun m => decide (s.work.n.toNat ≤ m) && decide (s.par.outCap ≤ m)) fun t =>
        t.goto Upc.s6Interpret) := rfl

theorem encodeFits {n cap m : Nat} (hn : n ≤ m) (hcap : cap ≤ m) : (decide (n ≤ m) && decide (cap ≤ m)) = true := by
  rw [decide_eq_true hn, decide_eq_true hcap]
  rfl

/-- Settles O38: the device does not answer, is too small, or runs the job. -/
theorem encodeJob : Obligations.EncodeJob := by
  intro s n
  refine ⟨fun hwait => ?_, fun m q hx => ⟨fun hm => ?_, fun hn hcap r q' hj => ?_⟩⟩
  · rw [exec_s5Encode]
    rcases hwait with hx | ⟨hj, m, q, hx, hn, hcap⟩
    · rw [State.submit_of_unqueried hx]
    · rw [State.submit_of_unanswered hx (encodeFits hn hcap) hj]
  · rw [exec_s5Encode, State.submit_of_too_small hx (by simp; omega)]
  · have heq := State.submitted_eq (s := s) (j := s.encodeJob) (m := m) (q := q) (r := r) (q' := q') rfl
    have hcur : ((s.submitted m q r q' s.encodeJob).goto Upc.s6Interpret).cur = _ := State.cur_submitted rfl
    have hout : ((s.submitted m q r q' s.encodeJob).goto Upc.s6Interpret).out = jobOut s.out s.encodeJob r :=
      (congrArg State.out heq :)
    rw [exec_s5Encode, State.submit_of_answered hx (encodeFits hn hcap) hj]
    refine ⟨_, rfl, ?_⟩
    rw [hcur, hout]
    refine ⟨?_, fun hmem hp k hk => ?_, fun a ha => read_jobOut_outside _ rfl r ha⟩
    · rw [heq]
      rfl
    · obtain ⟨-, hwf, -⟩ := hmem
      exact read_jobOut_inside hwf rfl hp hk

end Sys2Proof.Machine

namespace Sys2Proof.Machine

/-! ### The sink's growth in a block (R236) -/

theorem faulted_ne_s7Update : Upc.faulted ≠ Upc.s7Update := by decide

theorem State.holdCarry_of_update {s : State} (h : s.holdCarry.upc = Upc.s7Update) :
    s.cr.produced.toNat - 1 < s.par.outCap := by
  rcases memRead_cases s.par.outCap s.out (s.cr.produced.toNat - 1) 1 with ⟨hin, -⟩ | ⟨-, hnone⟩
  · simp [inRegion] at hin
    omega
  · rw [State.holdCarry, hnone] at h
    exact absurd h faulted_ne_s7Update

/-- S6.EMIT_CARRY goes on to S7.UPDATE only where OUT holds what was produced, at least a byte. -/
theorem produced_of_exec_s6EmitCarry {s t : State} (haccept : s.sinkAccepts = true) (h : exec .s6EmitCarry s = .next t)
    (hu : t.upc = Upc.s7Update) : 1 ≤ s.cr.produced.toNat ∧ s.cr.produced.toNat ≤ s.par.outCap := by
  have hexec : exec .s6EmitCarry s = execS6EmitCarry s := rfl
  rw [hexec, execS6EmitCarry] at h
  cases h
  by_cases hp : s.cr.produced.toNat = 0
  · rw [if_pos hp] at hu
    exact absurd hu faulted_ne_s7Update
  rw [if_neg hp] at hu
  rcases memReadBytes_cases s.par.outCap s.out 0 (s.cr.produced.toNat - 1) with ⟨-, hsome⟩ | ⟨-, hnone⟩
  · rw [hsome] at hu
    dsimp only at hu
    rw [State.emit_of_accepts haccept] at hu
    have hlt := State.holdCarry_of_update hu
    dsimp only at hlt
    omega
  · rw [hnone] at hu
    exact absurd hu faulted_ne_s7Update

theorem exec_s6EmitAll_of_update {s t : State} (haccept : s.sinkAccepts = true) (h : exec .s6EmitAll s = .next t)
    (hu : t.upc = Upc.s7Update) :
    t = { s with
          sink := s.sink ++ s.out.readBytes 0 s.cr.produced.toNat, sinkQ := s.sinkQ.tail, cb := 0, cbn := 0
          upc := Upc.s7Update } := by
  have hexec : exec .s6EmitAll s = execS6EmitAll s := rfl
  rw [hexec, execS6EmitAll] at h
  cases h
  rcases memReadBytes_cases s.par.outCap s.out 0 s.cr.produced.toNat with ⟨-, hsome⟩ | ⟨-, hnone⟩
  · rw [hsome]
    exact State.emit_of_accepts haccept _ _
  · rw [hnone] at hu
    exact absurd hu faulted_ne_s7Update

theorem State.bytesSoFar_of_no_carry {s : State} (h : s.cbn = 0) : s.bytesSoFar = s.sink.length := by
  rw [State.bytesSoFar, if_pos h]
  rfl

theorem State.length_sink_le_bytesSoFar (s : State) : s.sink.length ≤ s.bytesSoFar := Nat.le_add_right _ _

/-- A stored block's header takes one byte more than the Carried Bits in hand do. -/
theorem ceilDiv8_header_le (cbn : BitVec 3) : ceilDiv8 (cbn.toNat + 3) ≤ (if cbn = 0 then 0 else 1) + 1 := by
  revert cbn
  decide

/-- A state whose sink has grown by a stored block, no bit carried. -/
theorem State.bytesSoFar_stored {s t : State} {data : List Byte} {bf : Bool}
    (hsink : t.sink = s.sink ++ stored s.cb s.cbn bf data) (hcbn : t.cbn = 0) :
    t.bytesSoFar ≤ s.bytesSoFar + (data.length + 5) := by
  have hheader := ceilDiv8_header_le s.cbn
  rw [State.bytesSoFar_of_no_carry hcbn, hsink, List.length_append, length_stored, State.bytesSoFar]
  omega

theorem State.length_block (s : State) : s.block.length = s.work.n.toNat := Memory.length_readBytes _ _ _

theorem exec_s6Stored_of_accepts {s : State} (hn : s.work.n.toNat ≤ 32768) (haccept : s.sinkAccepts = true) :
    exec .s6Stored s =
      .next
        { s with
          sink := s.sink ++ stored s.cb s.cbn s.work.bf s.block, sinkQ := s.sinkQ.tail
          cb := 0, cbn := 0, upc := Upc.s7Update } :=
  (storedFallback s hn haccept).1

/-- What the block's end leaves of the sink and the Carried Bits. -/
theorem exec_zStored_sink {s t : State} (haccept : s.sinkAccepts = true) (h : exec .zStored s = .next t) :
    t.sink = s.sink ++ stored s.cb s.cbn s.work.bf [] ∧ t.cb = 0 ∧ t.cbn = 0 := by
  obtain ⟨hwrite, hread⟩ := zeroLengthBlock s haccept
  by_cases hc : cmdOp s.cmd = 4#4
  · rw [hread hc] at h
    cases h
    exact ⟨rfl, rfl, rfl⟩
  · rw [hwrite hc] at h
    cases h
    exact ⟨rfl, rfl, rfl⟩

/-- Settles O49: the byte held back, or the byte that a stored block's header adds, is the byte in hand. -/
theorem sinkBound : Obligations.SinkBound := by
  refine fun s t haccept hn => ⟨fun h hu hp => ?_, fun h hu hp => ?_, fun h => ?_, fun h => ?_⟩
  · obtain ⟨hpos, hcap⟩ := produced_of_exec_s6EmitCarry haccept h hu
    have hle := s.length_sink_le_bytesSoFar
    rw [exec_s6EmitCarry_of_accepts hpos hcap haccept] at h
    cases h
    simp only [State.bytesSoFar, List.length_append, Memory.length_readBytes] at hle ⊢
    split_ifs <;> omega
  · have hle := s.length_sink_le_bytesSoFar
    have hcbn : t.cbn = 0 := (congrArg State.cbn (exec_s6EmitAll_of_update haccept h hu) :)
    have hsink := congrArg State.sink (exec_s6EmitAll_of_update haccept h hu)
    rw [State.bytesSoFar_of_no_carry hcbn, hsink, List.length_append, Memory.length_readBytes]
    omega
  · rw [exec_s6Stored_of_accepts hn haccept] at h
    cases h
    exact (State.bytesSoFar_stored (s := s) (data := s.block) rfl rfl).trans_eq (by rw [s.length_block])
  · obtain ⟨hsink, -, hcbn⟩ := exec_zStored_sink haccept h
    exact State.bytesSoFar_stored hsink hcbn

/-! ### Bits of byte strings (R12) -/

theorem streamBits_append (a b : List Byte) : streamBits (a ++ b) = streamBits a ++ streamBits b := List.flatMap_append

theorem length_byteBits (b : Byte) : (byteBits b).length = 8 := by simp [byteBits]

theorem length_streamBits (bytes : List Byte) : (streamBits bytes).length = 8 * bytes.length := by
  induction bytes with
  | nil => rfl
  | cons b bs ih =>
    rw [streamBits, List.flatMap_cons, List.length_append, length_byteBits, List.length_cons]
    rw [streamBits] at ih
    omega

/-- The low bits of a number, the least significant first. -/
def lowBits (n v : Nat) : List Bool := (List.range n).map v.testBit

theorem lowBits_add (m n v : Nat) : lowBits (m + n) v = lowBits m v ++ lowBits n (v / 2 ^ m) := by
  simp only [lowBits, List.range_add, List.map_append, List.map_map]
  refine congrArg _ (List.map_congr_left fun i _ => ?_)
  rw [Nat.testBit_div_two_pow, Function.comp_apply, Nat.add_comm]

theorem lowBits_congr {n v w : Nat} (h : v % 2 ^ n = w % 2 ^ n) : lowBits n v = lowBits n w := by
  refine List.map_congr_left fun i hi => ?_
  have hi' : i < n := List.mem_range.mp hi
  have hbit := congrArg (Nat.testBit · i) h
  simpa [Nat.testBit_mod_two_pow, hi'] using hbit

theorem lowBits_zero (n : Nat) : lowBits n 0 = List.replicate n false := by
  simp [lowBits, List.eq_replicate_iff]

theorem byteBits_ofNat (v : Nat) : byteBits (BitVec.ofNat 8 v) = lowBits 8 v := by
  refine List.map_congr_left fun i hi => ?_
  rw [BitVec.getLsbD_ofNat, decide_eq_true (List.mem_range.mp hi), Bool.true_and]

theorem streamBits_bytesLe (v k : Nat) : streamBits (bytesLe v k) = lowBits (8 * k) v := by
  induction k generalizing v with
  | zero => rfl
  | succ k ih =>
    rw [bytesLe, streamBits, List.flatMap_cons, byteBits_ofNat, ← streamBits, ih, Nat.mul_succ, Nat.add_comm, lowBits_add]
    rfl

theorem State.carriedBits_eq (s : State) : s.carriedBits = lowBits s.cbn.toNat s.cb.toNat := rfl

/-- The bits of a stored block's header: the Carried Bits, BFINAL, two zero bits, and zeros to a whole byte (R230). -/
theorem streamBits_storedHeader (cb : BitVec 7) (cbn : BitVec 3) (bf : Bool) :
    streamBits (storedHeader cb cbn bf) =
      lowBits cbn.toNat cb.toNat ++ [bf, false, false] ++
        List.replicate (8 * ceilDiv8 (cbn.toNat + 3) - (cbn.toNat + 3)) false := by
  obtain ⟨pad, hlen⟩ : ∃ pad, 8 * ceilDiv8 (cbn.toNat + 3) = cbn.toNat + 3 + pad :=
    Nat.exists_eq_add_of_le (by
      rw [ceilDiv8]
      omega)
  have hlow : lowBits cbn.toNat (cb.toNat % 2 ^ cbn.toNat + bitNat bf * 2 ^ cbn.toNat) = lowBits cbn.toNat cb.toNat :=
    lowBits_congr (by simp)
  have hhigh : (cb.toNat % 2 ^ cbn.toNat + bitNat bf * 2 ^ cbn.toNat) / 2 ^ cbn.toNat = bitNat bf := by
    rw [Nat.add_mul_div_right _ _ (Nat.two_pow_pos _), Nat.div_eq_of_lt (Nat.mod_lt _ (Nat.two_pow_pos _)), Nat.zero_add]
  have hvalue : (if bf then 2 ^ cbn.toNat else 0) = bitNat bf * 2 ^ cbn.toNat := by cases bf <;> simp
  have hbf : lowBits 3 (bitNat bf) = [bf, false, false] := by cases bf <;> decide
  have hzero : bitNat bf / 2 ^ 3 = 0 := by cases bf <;> decide
  rw [storedHeader, storedHeader_value, hvalue, streamBits_bytesLe, hlen, Nat.add_sub_cancel_left, Nat.add_assoc,
    lowBits_add, hlow, hhigh, lowBits_add, hbf, hzero, lowBits_zero, ← List.append_assoc]

/-! ### Bit continuity (R235) -/

theorem State.carriedBits_of_none {s : State} (h : s.cbn = 0) : s.carriedBits = [] := by
  rw [State.carriedBits, h]
  rfl

theorem State.streamSoFar_of_no_carry {s : State} (h : s.cbn = 0) : s.streamSoFar = streamBits s.sink := by
  rw [State.streamSoFar, State.carriedBits_of_none h, List.append_nil]

/-- What a stored block adds to the stream: its three header bits, the padding to a byte, LEN, NLEN and its data. -/
def State.storedBits (s : State) (data : List Byte) : List Bool :=
  [s.work.bf, false, false] ++ List.replicate (8 * ceilDiv8 (s.cbn.toNat + 3) - (s.cbn.toNat + 3)) false
    ++ streamBits (bytesLe data.length 2 ++ bytesLe (65535 - data.length) 2 ++ data)

theorem State.streamSoFar_stored {s t : State} {data : List Byte}
    (hsink : t.sink = s.sink ++ stored s.cb s.cbn s.work.bf data) (hcbn : t.cbn = 0) :
    t.streamSoFar = s.streamSoFar ++ s.storedBits data := by
  have hblock : streamBits (stored s.cb s.cbn s.work.bf data) = s.carriedBits ++ s.storedBits data := by
    simp only [stored, streamBits_append, streamBits_storedHeader, State.storedBits, s.carriedBits_eq, List.append_assoc]
  rw [State.streamSoFar_of_no_carry hcbn, hsink, streamBits_append, hblock, State.streamSoFar, List.append_assoc]

theorem take_lowBits {k n : Nat} (h : k ≤ n) (v : Nat) : (lowBits n v).take k = lowBits k v := by
  rw [lowBits, ← List.map_take, List.take_range, Nat.min_eq_left h, lowBits]

theorem streamBits_singleton (b : Byte) : streamBits [b] = lowBits 8 b.toNat := List.append_nil _

/-- The bits of the bytes before the last, then the low bits of the last. -/
theorem take_streamBits_succ (m : Memory) (n : Nat) {k : Nat} (hk : k ≤ 8) :
    (streamBits (m.readBytes 0 (n + 1))).take (8 * n + k) =
      streamBits (m.readBytes 0 n) ++ lowBits k (m.read n).toNat := by
  have hlen : (streamBits (m.readBytes 0 n)).length = 8 * n := by rw [length_streamBits, Memory.length_readBytes]
  rw [Memory.readBytes_succ, streamBits_append, ← hlen, List.take_length_add_append, Nat.zero_add, streamBits_singleton,
    take_lowBits hk]

/-- CB holds its valid bits whole. -/
theorem lowBits_ofNat_mod {k : Nat} (hk : k ≤ 7) (v : Nat) : lowBits k (BitVec.ofNat 7 (v % 2 ^ k)).toNat = lowBits k v := by
  have hdvd : 2 ^ k ∣ 2 ^ 7 := Nat.pow_dvd_pow 2 hk
  exact lowBits_congr (by rw [BitVec.toNat_ofNat, Nat.mod_mod_of_dvd _ hdvd, Nat.mod_mod])

/-- Settles O48: bits of bytes, the last byte cut at its last valid bit; a stored header starts with the Carried Bits. -/
theorem bitContinuity : Obligations.BitContinuity := by
  refine fun s t haccept _ hn => ⟨fun h hpos hcap => ?_, fun h hcap => ?_, fun h => ?_, fun h => ?_⟩
  · obtain ⟨n, hp⟩ := Nat.exists_eq_add_of_le' hpos
    have hrem : s.cr.bitrem.toNat ≤ 7 := Nat.le_of_lt_succ s.cr.bitrem.isLt
    rw [exec_s6EmitCarry_of_accepts hpos hcap haccept] at h
    cases h
    rw [State.streamSoFar, State.carriedBits_eq, hp, Nat.add_sub_cancel, take_streamBits_succ _ _ (hrem.trans (by decide))]
    dsimp only
    rw [lowBits_ofNat_mod hrem, streamBits_append, List.append_assoc]
  · have hexec := emitAll s hcap haccept
    rw [hexec] at h
    cases h
    rw [State.streamSoFar_of_no_carry rfl, streamBits_append]
  · rw [exec_s6Stored_of_accepts hn haccept] at h
    cases h
    exact State.streamSoFar_stored rfl rfl
  · obtain ⟨hsink, -, hcbn⟩ := exec_zStored_sink haccept h
    exact State.streamSoFar_stored hsink hcbn

end Sys2Proof.Machine

namespace Sys2Proof.Machine

/-! ### From S4.PREFIX to the encode job's return (R229, R220) -/

/-- After the header the block is as it was: only the accumulator, HB and the AECS in use have changed. -/
def State.HeaderDone (s t : State) : Prop :=
  t =
    { s with
      acc := t.acc, nb := t.nb, total := t.total, outp := t.outp, hb := t.hb, aecs0 := t.aecs0, aecs1 := t.aecs1
      upc := Upc.s5Encode }

theorem State.headerDone_flushed (s : State) (b : BitWriter) (m : Memory) :
    s.HeaderDone (((s.setBitWriter b).goto Upc.s4Flush).flushed m) := by
  unfold State.HeaderDone State.flushed State.setBitWriter
  rw [State.setCur_eq, State.setCur_eq s]
  rfl

/-- S4.FLUSH after every field of the header, and the run goes on at S5.ENCODE. -/
theorem State.runsTo_flush_next {s : State} {b : BitWriter} {k : Nat} {p : State → Prop} (hwire : s.wire = none)
    (hfits : b.Fits) (hnext : ∀ t, s.HeaderDone t → RunsTo k t p) :
    RunsTo (k + 1) ((s.setBitWriter b).goto Upc.s4Flush) p := by
  have hb : ((s.setBitWriter b).goto Upc.s4Flush).bitWriter = b := by simp
  obtain ⟨m, hflush, -⟩ := BitWriter.flush_stores hfits
  rw [← hb] at hflush
  have hstep : step ((s.setBitWriter b).goto Upc.s4Flush) = exec .s4Flush ((s.setBitWriter b).goto Upc.s4Flush) :=
    step_eq_exec (by simpa using hwire) (show Upc.s4Flush ≠ Upc.idle by decide) rfl
  exact runsTo_succ (hstep.trans (exec_s4Flush_of_flush hflush)) (hnext _ (s.headerDone_flushed b m))

/-- The five writes and the flush of a header within the cap, and the run goes on at S5.ENCODE. -/
theorem State.runsTo_header_next {s : State} {k : Nat} {p : State → Prop} (hwire : s.wire = none) (hu : s.upc = Upc.s4Prefix)
    (hclear : s.accumulatorClear) (hcap : fieldsLength s.headerFields ≤ 2048)
    (hnext : ∀ t, s.HeaderDone t → RunsTo k t p) : RunsTo (k + 6) s p := by
  have hfits : s.bitWriter.Fits := s.accumulatorFits_iff.mp (State.accumulatorFits_of_clear hclear)
  obtain ⟨-, -, htotal, -⟩ := hclear
  have hzero : s.total.toNat = 0 := congrArg BitVec.toNat htotal
  rw [← s.fieldsLength_writtenFields] at hcap
  simp only [State.writtenFields, fieldsLength_append] at hcap
  rw [← s.setBitWriter_bitWriter_goto, hu]
  refine State.runsTo_write hwire (by decide) rfl rfl (.refl hfits) ?_ fun _ hcarried =>
    State.runsTo_write hwire (by decide) rfl rfl hcarried ?_ fun _ hblkhdr =>
    State.runsTo_write hwire (by decide) rfl rfl hblkhdr ?_ fun _ hcounts =>
    State.runsTo_write hwire (by decide) rfl rfl hcounts ?_ fun _ hcllens =>
    State.runsTo_write hwire (by decide) rfl rfl hcllens ?_ fun _ hseq =>
    State.runsTo_flush_next hwire hseq.fits hnext
  all_goals
    simp only [fieldsLength_append, fieldsLength_nil]
    omega

/-- At S6.INTERPRET the encode job of `s` has returned with the answer `r`, and the block is as it was. -/
def State.EncodeReturned (s : State) (r : JobAnswer) (t : State) : Prop :=
  t =
    { s with
      acc := t.acc, nb := t.nb, total := t.total, outp := t.outp, hb := t.hb, aecs0 := t.aecs0, aecs1 := t.aecs1
      xferQ := t.xferQ, jobQ := t.jobQ, maxxfer := t.maxxfer, desc := t.desc, cr := r.cr, submitFailed := false
      out := jobOut s.out s.encodeJob r, upc := Upc.s6Interpret }

theorem State.runsTo_encode_next {s t : State} {m : Nat} {q : List Nat} {r : JobAnswer} {q' : List JobAnswer} {k : Nat}
    {p : State → Prop} (hwire : s.wire = none) (hx : s.xferQ = m :: q) (hn : s.work.n.toNat ≤ m) (hcap : s.par.outCap ≤ m)
    (hj : s.jobQ = r :: q') (hr : r.submitStatus = none) (ht : s.HeaderDone t)
    (hnext : ∀ u, s.EncodeReturned r u → RunsTo k u p) : RunsTo (k + 1) t p := by
  have hrecord : r.record = r.cr := by rw [JobAnswer.record, hr]
  rw [State.HeaderDone] at ht
  have hupc : t.upc = Upc.s5Encode := (congrArg State.upc ht :)
  have hwork : t.work.n.toNat ≤ m := (congrArg (BitVec.toNat ∘ Work.n ∘ State.work) ht :).trans_le hn
  have hpar : t.par.outCap ≤ m := (congrArg (Params.outCap ∘ State.par) ht :).trans_le hcap
  have hstep : step t = .next ((t.submitted m q r q' t.encodeJob).goto Upc.s6Interpret) := by
    rw [step_eq_exec_of_upc ((congrArg State.wire ht :).trans hwire) hupc (by decide) rfl, exec_s5Encode,
      State.submit_of_answered ((congrArg State.xferQ ht :).trans hx) (encodeFits hwork hpar)
        ((congrArg State.jobQ ht :).trans hj)]
  refine runsTo_succ hstep (hnext _ ?_)
  rw [ht, State.EncodeReturned, State.submitted, State.afterJob_eq, hrecord, hr]
  rfl

/-! ### The block's append (R221 to R225) -/

theorem State.carriedBits_eq_fieldBits (s : State) : s.carriedBits = fieldBits (field s.cb.toNat s.cbn.toNat) := by
  refine List.map_congr_left fun i hi => ?_
  have hlt : i < 16 := (List.mem_range.mp hi).trans (s.cbn.isLt.trans (by decide))
  rw [field, BitVec.ofNat_toNat, BitVec.getLsbD_setWidth, decide_eq_true hlt, Bool.true_and]

/-- The header begins with the Carried Bits (R180). -/
theorem State.carriedBits_prefix_headerFields (s : State) : s.carriedBits <+: s.headerFields.flatMap fieldBits := by
  rw [s.carriedBits_eq_fieldBits, State.headerFields, List.cons_append, List.cons_append, List.flatMap_cons]
  exact List.prefix_append _ _

/-- What is appended to a stream leaves it as its beginning, wherever the Carried Bits begin what is appended. -/
theorem State.streamSoFar_prefix {s : State} {bits : List Bool} (h : s.carriedBits <+: bits) :
    s.streamSoFar <+: streamBits s.sink ++ bits :=
  (List.prefix_append_right_inj _).mpr h

/-- What the block's end must show of the state before it. -/
def State.StreamGrown (s t : State) : Prop := t.upc = Upc.s7Update ∧ s.streamSoFar <+: t.streamSoFar

theorem State.runsTo_stored {s : State} (hwire : s.wire = none) (hu : s.upc = Upc.s6Stored) (hn : s.work.n.toNat ≤ 32768)
    (hfits : s.carryFits) (haccept : s.sinkAccepts = true) : RunsTo 1 s s.StreamGrown := by
  obtain ⟨-, -, hstream, -⟩ := bitContinuity s _ haccept hfits hn
  have hexec := exec_s6Stored_of_accepts hn haccept
  refine runsTo_succ ((step_eq_exec_of_upc hwire hu (by decide) rfl).trans hexec) ⟨_, rfl, rfl, ?_⟩
  rw [hstream hexec]
  exact List.prefix_append _ _

/-- The answer's bits are the bits of OUT's bytes up to the last valid one. -/
theorem producedBits_eq_of_bitrem {r : JobAnswer} (hpos : 1 ≤ r.cr.produced.toNat) (hrem : r.cr.bitrem ≠ 0) :
    producedBits r = (streamBits r.producedBytes).take (8 * (r.cr.produced.toNat - 1) + r.cr.bitrem.toNat) := by
  have hlt := r.cr.bitrem.isLt
  rw [producedBits, if_neg hrem]
  congr 1
  omega

theorem producedBits_prefix (r : JobAnswer) : producedBits r <+: streamBits r.producedBytes := List.take_prefix _ _

section
variable {s : State} {r : JobAnswer} (hwire : s.wire = none) (hn : s.work.n.toNat ≤ 32768) (hfits : s.carryFits)
  (haccept : s.sinkAccepts = true) (hcap : s.cr.produced.toNat ≤ s.par.outCap) (hcr : s.cr = r.cr)
  (hout : s.out.readBytes 0 r.cr.produced.toNat = r.producedBytes) (hcarried : s.carriedBits <+: producedBits r)
include hwire hn hfits haccept hcap hcr hout hcarried

theorem State.runsTo_emitCarry (hu : s.upc = Upc.s6EmitCarry) (hpos : 1 ≤ s.cr.produced.toNat) (hrem : s.cr.bitrem ≠ 0) :
    RunsTo 1 s s.StreamGrown := by
  obtain ⟨hstream, -⟩ := bitContinuity s _ haccept hfits hn
  have hexec := exec_s6EmitCarry_of_accepts hpos hcap haccept
  refine runsTo_succ ((step_eq_exec_of_upc hwire hu (by decide) rfl).trans hexec) ⟨_, rfl, rfl, ?_⟩
  rw [hstream hexec hpos hcap, hcr, hout, ← producedBits_eq_of_bitrem (hcr ▸ hpos) (hcr ▸ hrem)]
  exact State.streamSoFar_prefix hcarried

theorem State.runsTo_emitAll (hu : s.upc = Upc.s6EmitAll) : RunsTo 1 s s.StreamGrown := by
  obtain ⟨-, hstream, -⟩ := bitContinuity s _ haccept hfits hn
  have hexec := emitAll s hcap haccept
  refine runsTo_succ ((step_eq_exec_of_upc hwire hu (by decide) rfl).trans hexec) ⟨_, rfl, rfl, ?_⟩
  rw [hstream hexec hcap, hcr, hout]
  exact State.streamSoFar_prefix (hcarried.trans (producedBits_prefix r))

end

/-- From the completion record on, a success or an overflow: the block's append carries the stream on (R221). -/
theorem State.runsTo_interpret {s : State} {r : JobAnswer} (hwire : s.wire = none) (hu : s.upc = Upc.s6Interpret)
    (hn : s.work.n.toNat ≤ 32768) (hfits : s.carryFits) (haccept : s.sinkAccepts = true) (hsubmitted : s.submitFailed = false)
    (hcr : s.cr = r.cr)
    (hsuccess : s.cr.status = s.par.success →
      1 ≤ s.cr.produced.toNat ∧ s.cr.produced.toNat ≤ s.par.outCap ∧
        s.out.readBytes 0 r.cr.produced.toNat = r.producedBytes ∧ s.carriedBits <+: producedBits r)
    (hoverflow : s.cr.status ≠ s.par.success → (s.cr.status, s.cr.error) ∈ s.par.overflowSet) :
    RunsTo 2 s s.StreamGrown := by
  let stored : State := { s with work := { s.work with path := .stored }, upc := Upc.s6Stored }
  have hstored : RunsTo 1 stored s.StreamGrown := State.runsTo_stored (s := stored) hwire rfl hn hfits haccept
  have hstep := (step_eq_exec_of_upc hwire hu (by decide) rfl).trans (interpretCompletion s)
  refine runsTo_succ hstep ?_
  rw [if_neg (by rw [hsubmitted]; decide)]
  by_cases hs : s.cr.status = s.par.success
  · obtain ⟨hpos, hcap, hout, hcarried⟩ := hsuccess hs
    rw [if_pos hs]
    split_ifs with hlong hcarry
    · exact hstored
    · let carry : State := { s with work := { s.work with path := .compressed }, upc := Upc.s6EmitCarry }
      exact State.runsTo_emitCarry (s := carry) hwire hn hfits haccept hcap hcr hout hcarried rfl hpos hcarry.2
    · let all : State := { s with work := { s.work with path := .compressed }, upc := Upc.s6EmitAll }
      exact State.runsTo_emitAll (s := all) hwire hn hfits haccept hcap hcr hout hcarried rfl
  · rw [if_neg hs, if_pos (hoverflow hs)]
    exact hstored

/-- Settles O60: the header is written, its job returns, and the block's append begins with the Carried Bits. -/
theorem carriedBitsReachTheStream : Obligations.CarriedBitsReachTheStream := by
  intro s m q r q' hwire hu hmem hclear hfits haccept hn _ hcap hx hmax hout hj hr hsuccess hoverflow
  obtain ⟨-, hwf, -⟩ := hmem
  refine State.runsTo_header_next (k := 3) hwire hu hclear hcap fun t ht =>
    State.runsTo_encode_next hwire hx hmax hout hj hr ht fun u hret => ?_
  rw [State.EncodeReturned] at hret
  rw [hret]
  refine State.runsTo_interpret (r := r) hwire rfl hn hfits haccept rfl rfl (fun hs => ?_) hoverflow
  obtain ⟨hpos, hle, hheader⟩ := hsuccess hs
  exact ⟨hpos, hle, s.afterJob_producedBytes s.encodeJob r rfl hwf hle, s.carriedBits_prefix_headerFields.trans hheader⟩

end Sys2Proof.Machine

namespace Sys2Proof.Machine

/-! ### Idempotent Reset: what the run still depends on at each place of the sequence (R229, R240) -/

/-- How much of the state beyond its registers the commands still to come can depend on: a place of the sequence. -/
inductive Stage where
  | rest
  | check
  | loop
  | block
  | counters
  | literalLengths
  | lengths
  | symbols
  | codeLengths
  | header
  | completion

/-- The stage of a micro-operation. -/
def stageOf : Instr → Stage
  | .check => .check
  | .xReadall => .loop
  | .s1Select | .s2Stat | .s5Encode | .zStored => .block
  | .s3Eob | .s3HgenLl => .counters
  | .s3HgenD => .literalLengths
  | .s3CanonLl | .s3CanonD | .s4Tokenize => .lengths
  | .s4HgenCl => .symbols
  | .s4CanonCl => .codeLengths
  | .s4Prefix | .s4Blkhdr | .s4Counts | .s4Cllens | .s4Seq | .s4Flush => .header
  | .s6Interpret | .s6EmitCarry | .s6EmitAll | .s6Stored | .s6Fatal | .s7Update => .completion
  | _ => .rest

/-- The fields that a stage may still depend on, and that RESET leaves as an earlier stream had them. -/
structure Kept where
  aecs : Aecs
  out : Memory
  cr : CompletionRecord
  submitFailed : Bool
  cmd : Word
  rtotal : BitVec 64
  work : Work

/-- Nothing is kept. -/
def Kept.none : Kept :=
  { aecs := Aecs.zero, out := Memory.empty, cr := CompletionRecord.zero, submitFailed := false, cmd := 0, rtotal := 0,
    work := Work.zero }

/-- A memory with these bytes from offset 0 on and nothing else. -/
@[irreducible] def memoryOf (bytes : List Byte) : Memory := Memory.empty.writeBytes 0 bytes

/-- A table with these entries and nothing else. -/
@[irreducible] def tableOf (entries : List (BitVec 32)) : Memory := Memory.empty.setEntries 0 entries

/-- The counters of an AECS, without the rest of it. -/
def Aecs.countersOnly (a : Aecs) : Aecs :=
  { Aecs.zero with histLL := tableOf (a.histLL.entries nLL), histD := tableOf (a.histD.entries nD) }

/-- How many bytes of OUT the micro-operations after an encode job can send. -/
def State.producedCount (s : State) : Nat := min s.par.outCap s.cr.produced.toNat

/-- What every micro-operation of a block depends on: the command, the bytes of READ_ALL's blocks before, BF and N; and the
working arrays given. -/
def State.keptBlock (s : State) (w : Work) : Kept :=
  { Kept.none with cmd := s.cmd, rtotal := s.abandonCount, work := { w with bf := s.work.bf, n := s.work.n } }

/-- What a stage depends on. -/
def State.kept (s : State) : Stage → Kept
  | .rest => .none
  | .check => { Kept.none with cmd := s.cmd }
  | .loop => { Kept.none with cmd := s.cmd, rtotal := s.rtotal, work := { Work.zero with bf := s.work.bf } }
  | .block => s.keptBlock Work.zero
  | .counters => { s.keptBlock Work.zero with aecs := s.cur.countersOnly }
  | .literalLengths => { s.keptBlock { Work.zero with llLen := s.work.llLen } with aecs := s.cur.countersOnly }
  | .lengths => s.keptBlock { Work.zero with llLen := s.work.llLen, dLen := s.work.dLen }
  | .symbols =>
    s.keptBlock
      { Work.zero with nlit := s.work.nlit, ndist := s.work.ndist, tok := s.work.tok, clFreq := s.work.clFreq }
  | .codeLengths =>
    s.keptBlock { Work.zero with nlit := s.work.nlit, ndist := s.work.ndist, tok := s.work.tok, clLen := s.work.clLen }
  | .header =>
    s.keptBlock
      { Work.zero with
        nlit := s.work.nlit, ndist := s.work.ndist, tok := s.work.tok, clLen := s.work.clLen, clRev := s.work.clRev
        nclen := s.work.nclen }
  | .completion =>
    { s.keptBlock Work.zero with
      cr := s.cr, submitFailed := s.submitFailed, out := memoryOf (s.out.readBytes 0 s.producedCount) }

/-- The state with every field blanked that a stage does not depend on. -/
def State.blanked (s : State) (g : Stage) : State :=
  let k := s.kept g
  { s with
    aecs0 := k.aecs, aecs1 := k.aecs, out := k.out, cr := k.cr, submitFailed := k.submitFailed, cmd := k.cmd, rtotal := k.rtotal
    work := k.work, maxxfer := 0, released := [], desc := none, ci := 0, freeCtr := 0 }

/-- The stage of a state. -/
def State.stage (s : State) : Stage := ((accepted (decodeUpc s.upc)).map stageOf).getD .rest

/-- What of a state the run from it on can depend on. -/
def State.live (s : State) : State := s.blanked s.stage

@[simp] theorem State.observed_blanked (s : State) (g : Stage) : (s.blanked g).observed = s.observed := rfl

theorem State.observed_of_live {s t : State} (h : s.live = t.live) : s.observed = t.observed := by
  simpa [State.live] using congrArg State.observed h

theorem State.abandonCount_keptBlock (s : State) : (if s.inReadAll then s.abandonCount else 0) = s.abandonCount := by
  unfold State.abandonCount
  split <;> rfl

/-- Two states are alike where their registers and what their stage keeps are the same. -/
theorem live_of_kept {s t : State} (g : Stage) (hcount : (s.kept g).rtotal = (t.kept g).rtotal)
    (haecs : (s.kept g).aecs = (t.kept g).aecs := by exact rfl) (hout : (s.kept g).out = (t.kept g).out := by exact rfl)
    (hrest : { s.kept g with rtotal := 0, aecs := Aecs.zero, out := Memory.empty } =
      { t.kept g with rtotal := 0, aecs := Aecs.zero, out := Memory.empty } := by exact rfl)
    (hregs : s.blanked .rest = t.blanked .rest := by exact rfl) (hs : s.stage = g := by exact rfl)
    (ht : t.stage = g := by exact rfl) : s.live = t.live := by
  have hput : ∀ x : State, x.blanked g =
      { x.blanked .rest with
        aecs0 := (x.kept g).aecs, aecs1 := (x.kept g).aecs, out := (x.kept g).out, cr := (x.kept g).cr
        submitFailed := (x.kept g).submitFailed, cmd := (x.kept g).cmd, rtotal := (x.kept g).rtotal, work := (x.kept g).work } :=
    fun _ => rfl
  obtain ⟨-, -, hcr, hfailed, hcmd, -, hwork⟩ := Kept.mk.inj hrest
  rw [State.live, State.live, hs, ht, hput s, hput t, hregs, hcount, haecs, hout, hcr, hfailed, hcmd, hwork]

/-- From a state of a stage, an instruction does the same whether or not the fields are blanked that the stage does not depend
on. -/
def ReadsLive (g : Stage) (i : Instr) : Prop :=
  ∀ s : State, s.memoryInv → s.stage = g →
    ∃ t t', exec i s = .next t ∧ exec i (s.blanked g) = .next t' ∧ t'.live = t.live

theorem live_ite {c : Prop} [Decidable c] {a b a' b' : State} (ha : a'.live = a.live) (hb : b'.live = b.live) :
    (if c then a' else b').live = (if c then a else b).live := by
  split <;> assumption

theorem readsLive_xClose : ReadsLive .rest .xClose := fun _ _ _ => ⟨_, _, rfl, rfl, rfl⟩

theorem readsLive_xReset : ReadsLive .rest .xReset := fun _ _ _ => ⟨_, _, rfl, rfl, rfl⟩

theorem readsLive_s1Select : ReadsLive .block .s1Select := by
  intro s _ _
  refine ⟨_, _, rfl, rfl, ?_⟩
  rw [State.setCur_eq (s.blanked .block), State.setCur_eq s]
  exact live_of_kept .block s.abandonCount_keptBlock

theorem readsLive_s3CanonLl : ReadsLive .lengths .s3CanonLl := by
  intro s _ _
  refine ⟨_, _, rfl, rfl, live_ite rfl ?_⟩
  have hll : (s.blanked .lengths).work.llLen = s.work.llLen := rfl
  dsimp only
  rw [hll]
  split
  · rfl
  · rw [State.setCur_eq (s.blanked .lengths), State.setCur_eq s]
    exact live_of_kept .lengths s.abandonCount_keptBlock

theorem readsLive_s3CanonD : ReadsLive .lengths .s3CanonD := by
  intro s _ _
  refine ⟨_, _, rfl, rfl, ?_⟩
  have hd : (s.blanked .lengths).work.dLen = s.work.dLen := rfl
  dsimp only
  rw [hd]
  split
  · rfl
  · rw [State.setCur_eq (s.blanked .lengths), State.setCur_eq s]
    exact live_of_kept .lengths s.abandonCount_keptBlock

theorem readsLive_s4Tokenize : ReadsLive .lengths .s4Tokenize := fun s _ _ =>
  ⟨_, _, exec_s4Tokenize s, exec_s4Tokenize _, live_of_kept .symbols s.abandonCount_keptBlock⟩

theorem readsLive_s4HgenCl : ReadsLive .symbols .s4HgenCl := fun s _ _ =>
  ⟨_, _, rfl, rfl, live_ite rfl (live_of_kept .codeLengths s.abandonCount_keptBlock)⟩

theorem readsLive_s4CanonCl : ReadsLive .codeLengths .s4CanonCl := by
  intro s _ _
  refine ⟨_, _, rfl, rfl, ?_⟩
  have hcl : (s.blanked .codeLengths).work.clLen = s.work.clLen := rfl
  dsimp only
  rw [hcl]
  split
  · rfl
  · exact live_of_kept .header s.abandonCount_keptBlock

/-! ### What the header depends on -/

/-- An accumulator without its region. -/
def BitWriter.bare (b : BitWriter) : BitWriter := { b with hdr := Memory.empty }

/-- What a write leaves, without the region. -/
def bareResult : WriteResult → WriteResult
  | .ok b => .ok b.bare
  | .error (r, b) => .error (r, b.bare)

theorem BitWriter.bareResult_drainGroup (b : BitWriter) : bareResult b.bare.drainGroup = bareResult b.drainGroup := by
  have hnb : b.bare.nb = b.nb := rfl
  have houtp : b.bare.outp = b.outp := rfl
  unfold BitWriter.drainGroup memWrite
  rw [hnb, houtp]
  split_ifs <;> rfl

theorem BitWriter.bareResult_write (b : BitWriter) (f : Field) : bareResult (b.bare.write f) = bareResult (b.write f) := by
  have htotal : b.bare.total = b.total := rfl
  unfold BitWriter.write
  rw [htotal]
  split_ifs
  · rfl
  · exact (b.append f).bareResult_drainGroup

/-- What the region holds has no say in the writes. -/
theorem BitWriter.bareResult_writeAll {b b' : BitWriter} (fs : List Field) (h : b'.bare = b.bare) :
    bareResult (b'.writeAll fs) = bareResult (b.writeAll fs) := by
  induction fs generalizing b b' with
  | nil => exact congrArg Except.ok h
  | cons f fs ih =>
    have hw : bareResult (b'.write f) = bareResult (b.write f) := by rw [← b.bareResult_write, ← b'.bareResult_write, h]
    rcases b.writeAll_cases f fs with ⟨c, hc, hall⟩ | ⟨e, he, hall⟩ <;>
      rcases b'.writeAll_cases f fs with ⟨c', hc', hall'⟩ | ⟨e', he', hall'⟩ <;> rw [hall, hall']
    · rw [hc, hc'] at hw
      exact ih (Except.ok.inj hw)
    · rw [hc, he'] at hw
      cases hw
    · rw [he, hc'] at hw
      cases hw
    · rwa [he, he'] at hw

theorem State.cur_blanked (s : State) (g : Stage) : (s.blanked g).cur = (s.kept g).aecs :=
  ite_self _

theorem live_setBitWriter_goto (s : State) {b b' : BitWriter} {i : Instr} {u : BitVec 8} (hd : decodeUpc u = .ok i)
    (hi : stageOf i = .header) (h : b'.bare = b.bare) :
    (((s.blanked .header).setBitWriter b').goto u).live = ((s.setBitWriter b).goto u).live := by
  obtain ⟨hacc, hnb, htotal, houtp⟩ : b'.acc = b.acc ∧ b'.nb = b.nb ∧ b'.total = b.total ∧ b'.outp = b.outp := by
    simpa [BitWriter.bare] using h
  have hstage : ∀ t : State, (t.goto u).stage = .header := fun t => by simp [State.stage, hd, hi, accepted]
  unfold State.setBitWriter
  rw [State.setCur_eq (s.blanked .header), State.setCur_eq s, hacc, hnb, htotal, houtp]
  exact live_of_kept .header s.abandonCount_keptBlock (hs := hstage _) (ht := hstage _)

theorem live_setBitWriter_enterFault (s : State) {b b' : BitWriter} (r : FaultReason) (h : b'.bare = b.bare) :
    (((s.blanked .header).setBitWriter b').enterFault r).live = ((s.setBitWriter b).enterFault r).live := by
  obtain ⟨hacc, hnb, htotal, houtp⟩ : b'.acc = b.acc ∧ b'.nb = b.nb ∧ b'.total = b.total ∧ b'.outp = b.outp := by
    simpa [BitWriter.bare] using h
  unfold State.setBitWriter
  rw [State.setCur_eq (s.blanked .header), State.setCur_eq s, hacc, hnb, htotal, houtp]
  rfl

theorem readsLive_of_fieldsOf {i j : Instr} {fields : State → List Field} {u : BitVec 8}
    (hi : ∀ s, s.fieldsOf i = some (fields s, u)) (hd : decodeUpc u = .ok j) (hj : stageOf j = .header)
    (hfields : ∀ s, fields (s.blanked .header) = fields s) : ReadsLive .header i := by
  intro s _ _
  refine ⟨_, _, exec_of_fieldsOf (hi s), exec_of_fieldsOf (hi _), ?_⟩
  have hbare : (s.blanked .header).bitWriter.bare = s.bitWriter.bare := rfl
  have hall := BitWriter.bareResult_writeAll (fields s) hbare
  rw [hfields]
  rcases s.writeFields_cases (fields s) u with ⟨b, hb, h⟩ | ⟨r, b, hb, h⟩ <;>
    rcases (s.blanked .header).writeFields_cases (fields s) u with ⟨b', hb', h'⟩ | ⟨r', b', hb', h'⟩ <;>
    rw [hb, hb'] at hall <;> rw [h, h']
  · exact live_setBitWriter_goto s hd hj (Except.ok.inj hall)
  · cases hall
  · cases hall
  · obtain ⟨-, hbb⟩ := Prod.mk.inj (Except.error.inj hall)
    exact live_setBitWriter_enterFault s _ hbb

theorem readsLive_s4Prefix : ReadsLive .header .s4Prefix :=
  readsLive_of_fieldsOf (fun _ => rfl) (u := Upc.s4Blkhdr) rfl rfl fun _ => rfl

theorem readsLive_s4Blkhdr : ReadsLive .header .s4Blkhdr :=
  readsLive_of_fieldsOf (fun _ => rfl) (u := Upc.s4Counts) rfl rfl fun _ => rfl

theorem readsLive_s4Counts : ReadsLive .header .s4Counts :=
  readsLive_of_fieldsOf (fun _ => rfl) (u := Upc.s4Cllens) rfl rfl fun _ => rfl

theorem readsLive_s4Cllens : ReadsLive .header .s4Cllens :=
  readsLive_of_fieldsOf (fun _ => rfl) (u := Upc.s4Seq) rfl rfl fun _ => rfl

theorem readsLive_s4Seq : ReadsLive .header .s4Seq :=
  readsLive_of_fieldsOf (fun _ => rfl) (u := Upc.s4Flush) rfl rfl fun _ => rfl

theorem readsLive_s4Flush : ReadsLive .header .s4Flush := by
  intro s _ _
  have hnb : (s.blanked .header).bitWriter.nb = s.bitWriter.nb := rfl
  have houtp : (s.blanked .header).bitWriter.outp = s.bitWriter.outp := rfl
  rcases s.bitWriter.flush_cases with ⟨hr, h⟩ | ⟨hr, h⟩ <;>
    rcases (s.blanked .header).bitWriter.flush_cases with ⟨hr', h'⟩ | ⟨hr', h'⟩ <;> rw [hnb, houtp] at hr'
  · refine ⟨_, _, exec_s4Flush_of_flush h, exec_s4Flush_of_flush h', ?_⟩
    unfold State.flushed
    rw [State.setCur_eq (s.blanked .header), State.setCur_eq s]
    exact live_of_kept .block s.abandonCount_keptBlock
  · simp [hr] at hr'
  · simp [hr] at hr'
  · refine ⟨_, _, rfl, rfl, ?_⟩
    simp only [h, h']
    exact live_setBitWriter_enterFault s _ rfl

/-! ### What the code lengths depend on -/

theorem Memory.wf_tableOf (entries : List (BitVec 32)) : (tableOf entries).wf = true := by
  rw [tableOf]
  exact Memory.wf_setEntries _ _ _ Memory.wf_empty

theorem Memory.entry_tableOf_entries (m : Memory) {n i : Nat} (h : i < n) : (tableOf (m.entries n)).entry i = m.entry i := by
  have hlen : (m.entries n).length = n := by simp [Memory.entries]
  rw [tableOf, Memory.entry_setEntries _ _ _ _ Memory.wf_empty, if_pos ⟨Nat.zero_le i, by omega⟩]
  simp [Memory.entries, List.getD, h]

theorem Memory.entries_congr {m m' : Memory} {n : Nat} (h : ∀ i, i < n → m'.entry i = m.entry i) : m'.entries n = m.entries n :=
  List.map_congr_left fun i hi => h i (List.mem_range.mp hi)

theorem Memory.entries_tableOf_entries (m : Memory) (n : Nat) : (tableOf (m.entries n)).entries n = m.entries n :=
  Memory.entries_congr fun _ => m.entry_tableOf_entries

theorem Aecs.countersOnly_congr {a b : Aecs} (hll : a.histLL.entries nLL = b.histLL.entries nLL)
    (hd : a.histD.entries nD = b.histD.entries nD) : a.countersOnly = b.countersOnly := by
  rw [Aecs.countersOnly, Aecs.countersOnly, hll, hd]

theorem Aecs.entries_countersOnly (a : Aecs) :
    a.countersOnly.histLL.entries nLL = a.histLL.entries nLL ∧ a.countersOnly.histD.entries nD = a.histD.entries nD :=
  ⟨a.histLL.entries_tableOf_entries nLL, a.histD.entries_tableOf_entries nD⟩

theorem Aecs.countersOnly_countersOnly (a : Aecs) : a.countersOnly.countersOnly = a.countersOnly :=
  Aecs.countersOnly_congr a.entries_countersOnly.1 a.entries_countersOnly.2

theorem State.freq_of_cur {s t : State} (h : s.cur = t.cur.countersOnly) : s.freqLL = t.freqLL ∧ s.freqD = t.freqD := by
  obtain ⟨hll, hd⟩ := t.cur.entries_countersOnly
  rw [State.freqLL, State.freqLL, State.freqD, State.freqD, h, hll, hd]
  exact ⟨rfl, rfl⟩

theorem readsLive_s3HgenLl : ReadsLive .counters .s3HgenLl := by
  intro s _ _
  have hcur := s.cur_blanked .counters
  obtain ⟨hs, -⟩ := codeLengthMicroOperations s
  obtain ⟨hs', -⟩ := codeLengthMicroOperations (s.blanked .counters)
  refine ⟨_, _, hs, hs', ?_⟩
  rw [(State.freq_of_cur hcur).1]
  refine live_of_kept .literalLengths s.abandonCount_keptBlock (haecs := ?_)
  exact (congrArg Aecs.countersOnly hcur).trans s.cur.countersOnly_countersOnly

theorem readsLive_s3HgenD : ReadsLive .literalLengths .s3HgenD := by
  intro s _ _
  obtain ⟨-, hs, -⟩ := codeLengthMicroOperations s
  obtain ⟨-, hs', -⟩ := codeLengthMicroOperations (s.blanked .literalLengths)
  refine ⟨_, _, hs, hs', ?_⟩
  rw [(State.freq_of_cur (s.cur_blanked .literalLengths)).2]
  exact live_of_kept .lengths s.abandonCount_keptBlock

theorem readsLive_s3Eob : ReadsLive .counters .s3Eob := by
  intro s hmem _
  have hcur : (s.blanked .counters).cur = s.cur.countersOnly := s.cur_blanked .counters
  refine ⟨_, _, exec_s3Eob s, exec_s3Eob _, ?_⟩
  obtain ⟨hll, hd⟩ := s.cur.entries_countersOnly
  have heob : s.cur.countersOnly.histLL.withEob.entries nLL = s.cur.histLL.withEob.entries nLL := by
    have hentry : ∀ i, i < nLL → s.cur.countersOnly.histLL.entry i = s.cur.histLL.entry i :=
      fun i hi => s.cur.histLL.entry_tableOf_entries hi
    have hwf : s.cur.countersOnly.histLL.wf = true := Memory.wf_tableOf _
    refine Memory.entries_congr fun i hi => ?_
    rw [Memory.entry_withEob hwf, Memory.entry_withEob (State.wf_hist hmem).1, hentry i hi, hentry 256 (by decide)]
  have haecs : ((s.blanked .counters).setCur
        { (s.blanked .counters).cur with histLL := (s.blanked .counters).cur.histLL.withEob }).cur.countersOnly =
      (s.setCur { s.cur with histLL := s.cur.histLL.withEob }).cur.countersOnly := by
    rw [State.cur_setCur, State.cur_setCur, hcur]
    exact Aecs.countersOnly_congr heob hd
  refine live_of_kept .counters ?_ (haecs := haecs) (hrest := ?_) (hregs := ?_)
  all_goals rw [State.setCur_eq (s.blanked .counters), State.setCur_eq s]
  · exact s.abandonCount_keptBlock
  · rfl
  · rfl

end Sys2Proof.Machine

namespace Sys2Proof.Machine

/-! ### The shared operations on states that are alike -/

theorem live_raise {s t : State} (c : ErrClass) (n : BitVec 64) (hregs : s.blanked .rest = t.blanked .rest)
    (hcr : c = .hw → s.cr = t.cr) : (s.raise c n).live = (t.raise c n).live := by
  have hraise : ∀ x : State, (x.raise c n).live =
      { x.blanked .rest with
        err := (x.blanked .rest).err || c.latches, eclass := c.code, hwstatus := if c = .hw then x.cr.status else 0
        hwerr := if c = .hw then x.cr.error else 0, count := n, upc := Upc.idle } := fun _ => rfl
  rw [hraise, hraise, hregs]
  by_cases hc : c = .hw
  · rw [hcr hc]
  · simp only [hc, if_false]

theorem live_raiseBlock {s t : State} (c : ErrClass) (hcount : s.abandonCount = t.abandonCount)
    (hcr : c = .hw → s.cr = t.cr := by exact fun h => ErrClass.noConfusion h)
    (hregs : s.blanked .rest = t.blanked .rest := by exact rfl) : (s.raiseBlock c).live = (t.raiseBlock c).live := by
  rw [State.raiseBlock, State.raiseBlock, hcount]
  exact live_raise c _ hregs hcr

/-- An append depends on what the sink holds and answers; what follows it, on the rest. -/
theorem live_emit {s t : State} {bytes : List Byte} {next : State → State} (hcount : s.abandonCount = t.abandonCount)
    (hnext : ∀ b q, (next { s with sink := b, sinkQ := q }).live = (next { t with sink := b, sinkQ := q }).live)
    (hregs : s.blanked .rest = t.blanked .rest := by exact rfl) : (s.emit bytes next).live = (t.emit bytes next).live := by
  have hq : s.sinkQ = t.sinkQ := (congrArg State.sinkQ hregs :)
  have hsink : s.sink = t.sink := (congrArg State.sink hregs :)
  have hfail : ∀ b q, ({ s with sink := b, sinkQ := q }.raiseBlock .sink).live =
      ({ t with sink := b, sinkQ := q }.raiseBlock .sink).live := fun b q =>
    live_raiseBlock (s := { s with sink := b, sinkQ := q }) (t := { t with sink := b, sinkQ := q }) .sink hcount
      (hregs := congrArg (fun x : State => { x with sink := b, sinkQ := q }) hregs)
  unfold State.emit State.sinkAppend
  rw [hq, hsink]
  split
  · exact hnext _ _
  · exact hnext _ _
  · exact hfail _ _

/-- A job's micro-operation depends on the answers; what follows the job, on the rest. -/
theorem live_submit {s t : State} {j : Job} {fits : Nat → Bool} {done : State → State}
    (hcount : s.abandonCount = t.abandonCount) (hwait : s.live = t.live)
    (hdone : ∀ m q r q', (done ({ s with xferQ := q, maxxfer := m, jobQ := q' }.afterJob j r)).live =
      (done ({ t with xferQ := q, maxxfer := m, jobQ := q' }.afterJob j r)).live)
    (hregs : s.blanked .rest = t.blanked .rest := by exact rfl) :
    (s.submit j fits done).live = (t.submit j fits done).live := by
  have hx : s.xferQ = t.xferQ := (congrArg State.xferQ hregs :)
  have hj : s.jobQ = t.jobQ := (congrArg State.jobQ hregs :)
  unfold State.submit
  dsimp only
  rw [hx]
  split
  · exact hwait
  · next m q _ =>
    refine live_ite ?_ ?_
    · rw [hj]
      split
      · exact hwait
      · exact hdone _ _ _ _
    · exact live_raiseBlock (s := { s with xferQ := q, maxxfer := BitVec.ofNat 32 m })
        (t := { t with xferQ := q, maxxfer := BitVec.ofNat 32 m }) .size hcount
        (hregs := congrArg (fun x : State => { x with xferQ := q }) hregs)

theorem live_endBlock {s t : State} (n : BitVec 64) (hcount : s.abandonCount = t.abandonCount)
    (hcmd : s.cmd = t.cmd := by exact rfl) (hbf : s.work.bf = t.work.bf := by exact rfl)
    (hregs : s.blanked .rest = t.blanked .rest := by exact rfl) : (s.endBlock n).live = (t.endBlock n).live := by
  have hread : s.inReadAll = t.inReadAll := by rw [State.inReadAll, State.inReadAll, hcmd]
  have hfinish : ∀ x : State, ({ x with fin := x.work.bf }.finish n).live =
      { x.blanked .rest with fin := x.work.bf, eclass := 0, hwstatus := 0, hwerr := 0, count := n, upc := Upc.idle } :=
    fun _ => rfl
  rcases s.endBlock_cases n with ⟨hs, h⟩ | ⟨hs, h⟩ <;> rcases t.endBlock_cases n with ⟨ht, h'⟩ | ⟨ht, h'⟩ <;> rw [h, h']
  · rw [hfinish, hfinish, hregs, hbf]
  · simp [hread, ht] at hs
  · simp [hread, ht] at hs
  · have htotal : s.rtotal = t.rtotal := by simpa [State.abandonCount, hs, ht] using hcount
    refine live_of_kept .loop (congrArg (· + n) htotal) (hrest := ?_) (hregs := ?_)
    · exact congrArg₂ (fun w b => { Kept.none with cmd := w, work := { Work.zero with bf := b } }) hcmd hbf
    · exact congrArg₂ (fun x b => { x with fin := b, upc := Upc.xReadall }) hregs hbf

/-- With its live fields alone, a state of a block has the same live fields. -/
theorem live_blanked_block {s : State} (h : s.stage = .block) : (s.blanked .block).live = s.live :=
  live_of_kept .block s.abandonCount_keptBlock (hs := h) (ht := h)

/-! ### What the jobs depend on -/

theorem Aecs.countersOnly_afterJob {a b : Aecs} (ha : a.histLL.wf = true ∧ a.histD.wf = true)
    (hb : b.histLL.wf = true ∧ b.histD.wf = true) (r : JobAnswer) :
    (a.afterJob (r.written .stat)).countersOnly = (b.afterJob (r.written .stat)).countersOnly := by
  refine Aecs.countersOnly_congr (Memory.entries_congr fun i hi => ?_) (Memory.entries_congr fun i hi => ?_)
  · rw [Aecs.entry_histLL_afterJob ha.1 r hi, Aecs.entry_histLL_afterJob hb.1 r hi]
  · rw [Aecs.entry_histD_afterJob ha.2 r hi, Aecs.entry_histD_afterJob hb.2 r hi]

theorem readsLive_s2Stat : ReadsLive .block .s2Stat := by
  intro s hmem hstage
  refine ⟨_, _, rfl, rfl, live_submit s.abandonCount_keptBlock (live_blanked_block hstage) fun m q r q' => ?_⟩
  rw [State.isSuccess_afterJob, State.isSuccess_afterJob]
  refine live_ite ?_ ?_
  · have hcur : ({ s.blanked .block with xferQ := q, maxxfer := m, jobQ := q' }.afterJob s.statJob r).cur.countersOnly =
        ({ s with xferQ := q, maxxfer := m, jobQ := q' }.afterJob s.statJob r).cur.countersOnly := by
      rw [State.cur_afterJob r (by rfl), State.cur_afterJob r (by rfl)]
      exact Aecs.countersOnly_afterJob (by
        rw [show ({ s.blanked .block with xferQ := q, maxxfer := m, jobQ := q' } : State).cur = Aecs.zero from s.cur_blanked .block]
        exact ⟨rfl, rfl⟩) (State.wf_hist hmem) r
    refine live_of_kept .counters ?_ (haecs := hcur) (hrest := ?_) (hregs := ?_)
    all_goals rw [State.afterJob_eq, State.afterJob_eq { s with xferQ := q, maxxfer := m, jobQ := q' }]
    · exact s.abandonCount_keptBlock
    · rfl
    · rfl
  · refine live_raiseBlock .hw ?_ (hcr := fun _ => rfl) (hregs := ?_)
    all_goals rw [State.afterJob_eq, State.afterJob_eq { s with xferQ := q, maxxfer := m, jobQ := q' }]
    · exact s.abandonCount_keptBlock
    · rfl

/-! ### What the steps after the encode job depend on -/

theorem Memory.readBytes_memoryOf_readBytes (m : Memory) {k n : Nat} (h : k ≤ n) :
    (memoryOf (m.readBytes 0 n)).readBytes 0 k = m.readBytes 0 k := by
  have hk : k ≤ (m.readBytes 0 n).length := by simpa using h
  rw [memoryOf, Memory.readBytes_writeBytes Memory.wf_empty _ hk]
  refine List.ext_getElem (by simpa using h) fun i hi _ => ?_
  simp [Memory.getElem_readBytes]

theorem Memory.read_memoryOf_readBytes (m : Memory) {k n : Nat} (h : k < n) :
    (memoryOf (m.readBytes 0 n)).read k = m.read k := by
  have hk : k < (m.readBytes 0 n).length := by simpa using h
  have hread := Memory.read_writeBytes_inside _ 0 k _ Memory.wf_empty hk
  rw [Nat.zero_add, Memory.getElem_readBytes, Nat.zero_add] at hread
  rw [memoryOf, hread]

theorem readsLive_s5Encode : ReadsLive .block .s5Encode := by
  intro s hmem hstage
  have ⟨_, hwf, _⟩ := hmem
  refine ⟨_, _, rfl, rfl, live_submit s.abandonCount_keptBlock (live_blanked_block hstage) fun m q r q' => ?_⟩
  rw [State.afterJob_eq, State.afterJob_eq { s with xferQ := q, maxxfer := m, jobQ := q' }]
  refine live_of_kept .completion s.abandonCount_keptBlock (hout := congrArg memoryOf ?_)
  show (jobOut Memory.empty s.encodeJob r).readBytes 0 (min s.par.outCap r.record.produced.toNat) =
    (jobOut s.out s.encodeJob r).readBytes 0 (min s.par.outCap r.record.produced.toNat)
  rw [r.record_produced]
  exact (readBytes_jobOut Memory.wf_empty s.encodeJob_out r).trans (readBytes_jobOut hwf s.encodeJob_out r).symm

theorem State.out_blanked_completion (s : State) :
    (memoryOf ((s.blanked .completion).out.readBytes 0 s.producedCount)) = memoryOf (s.out.readBytes 0 s.producedCount) :=
  congrArg memoryOf (s.out.readBytes_memoryOf_readBytes le_rfl)

theorem readsLive_s6Interpret : ReadsLive .completion .s6Interpret := by
  intro s _ _
  have hpath : ∀ p u i, decodeUpc u = .ok i → stageOf i = .completion →
      ((s.blanked .completion).takePath p u).live = (s.takePath p u).live := by
    intro p u i hd hi
    have hstage : ∀ t : State, (t.takePath p u).stage = .completion := fun t => by simp [State.stage, hd, hi, accepted]
    exact live_of_kept .completion s.abandonCount_keptBlock (hout := s.out_blanked_completion) (hs := hstage _) (ht := hstage _)
  refine ⟨_, _, rfl, rfl, live_ite (live_ite ?_ (live_ite ?_ ?_)) (live_ite ?_ ?_)⟩
  · exact hpath _ _ .s6Stored rfl rfl
  · exact hpath _ _ .s6EmitCarry rfl rfl
  · exact hpath _ _ .s6EmitAll rfl rfl
  · exact hpath _ _ .s6Stored rfl rfl
  · exact live_of_kept .completion s.abandonCount_keptBlock (hout := s.out_blanked_completion)

theorem memReadBytes_memoryOf (m : Memory) {size n k : Nat} (h : k ≤ n) :
    memReadBytes size (memoryOf (m.readBytes 0 (min size n))) 0 k = memReadBytes size m 0 k := by
  rcases memReadBytes_cases size m 0 k with ⟨hr, hm⟩ | ⟨hr, hm⟩
  · have hk : k ≤ size := by
      have := of_decide_eq_true hr
      omega
    rw [hm, memReadBytes, if_pos hr, m.readBytes_memoryOf_readBytes (by omega)]
  · rw [hm, memReadBytes, if_neg (by simp [hr])]

theorem memRead_memoryOf (m : Memory) {size n k : Nat} (h : k < n) :
    memRead size (memoryOf (m.readBytes 0 (min size n))) k 1 = memRead size m k 1 := by
  rcases memRead_cases size m k 1 with ⟨hr, hm⟩ | ⟨hr, hm⟩
  · have hk : k + 1 ≤ size := by
      have := of_decide_eq_true hr
      omega
    have hread := m.read_memoryOf_readBytes (k := k) (n := min size n) (by omega)
    rw [hm, memRead, if_pos hr, Memory.readBytes_congr _ m k 1 (by simpa using hread)]
  · rw [hm, memRead, if_neg (by simp [hr])]

theorem readsLive_s6EmitCarry : ReadsLive .completion .s6EmitCarry := by
  intro s _ _
  refine ⟨_, _, rfl, rfl, ?_⟩
  by_cases hp : s.cr.produced.toNat = 0
  · rw [if_pos hp, if_pos (show (s.blanked .completion).cr.produced.toNat = 0 from hp)]
    rfl
  · rw [if_neg hp, if_neg (show ¬(s.blanked .completion).cr.produced.toNat = 0 from hp)]
    have hread : memReadBytes (s.blanked .completion).par.outCap (s.blanked .completion).out 0
        ((s.blanked .completion).cr.produced.toNat - 1) = memReadBytes s.par.outCap s.out 0 (s.cr.produced.toNat - 1) :=
      memReadBytes_memoryOf s.out (Nat.sub_le _ _)
    rw [hread]
    split
    · rfl
    · refine live_emit s.abandonCount_keptBlock fun b q => ?_
      have hlast_lt : s.cr.produced.toNat - 1 < s.cr.produced.toNat := Nat.sub_one_lt hp
      have hlast : memRead (s.blanked .completion).par.outCap (s.blanked .completion).out
          ((s.blanked .completion).cr.produced.toNat - 1) 1 = memRead s.par.outCap s.out (s.cr.produced.toNat - 1) 1 :=
        memRead_memoryOf s.out hlast_lt
      unfold State.holdCarry
      dsimp only
      rw [hlast]
      split
      · rfl
      · exact live_of_kept .completion s.abandonCount_keptBlock (hout := s.out_blanked_completion)

theorem live_clearCarry_update (s : State) (b : List Byte) (q : List SinkAnswer) :
    ({ s.blanked .completion with sink := b, sinkQ := q }.clearCarry.goto Upc.s7Update).live =
      ({ s with sink := b, sinkQ := q }.clearCarry.goto Upc.s7Update).live :=
  live_of_kept .completion s.abandonCount_keptBlock (hout := s.out_blanked_completion)

theorem readsLive_s6EmitAll : ReadsLive .completion .s6EmitAll := by
  intro s _ _
  refine ⟨_, _, rfl, rfl, ?_⟩
  have hread : memReadBytes (s.blanked .completion).par.outCap (s.blanked .completion).out 0
      (s.blanked .completion).cr.produced.toNat = memReadBytes s.par.outCap s.out 0 s.cr.produced.toNat :=
    memReadBytes_memoryOf s.out le_rfl
  rw [hread]
  split
  · rfl
  · exact live_emit s.abandonCount_keptBlock fun b q => live_clearCarry_update s b q

theorem readsLive_s6Stored : ReadsLive .completion .s6Stored := by
  intro s _ _
  refine ⟨_, _, rfl, rfl, ?_⟩
  have hread : (s.blanked .completion).readBlock = s.readBlock := rfl
  rw [hread]
  split
  · rfl
  · exact live_emit s.abandonCount_keptBlock fun b q => live_clearCarry_update s b q

theorem readsLive_s6Fatal : ReadsLive .completion .s6Fatal := fun s _ _ =>
  ⟨_, _, rfl, rfl, live_raiseBlock .hw s.abandonCount_keptBlock (hcr := fun _ => rfl)⟩

theorem readsLive_s7Update : ReadsLive .completion .s7Update := by
  intro s _ _
  refine ⟨_, _, rfl, rfl, live_ite (live_endBlock _ s.abandonCount_keptBlock) ?_⟩
  have hread : (s.blanked .completion).readBlock = s.readBlock := rfl
  rw [hread]
  split
  · rfl
  · exact live_endBlock _ s.abandonCount_keptBlock

theorem readsLive_zStored : ReadsLive .block .zStored := by
  intro s _ _
  refine ⟨_, _, rfl, rfl, live_emit s.abandonCount_keptBlock fun b q => live_endBlock 0 ?_⟩
  exact s.abandonCount_keptBlock

/-! ### What the commands and the host depend on -/

theorem live_startSourceBlock (s : State) (held : List Byte) (rest : Source) (final : Bool) :
    ((s.blanked .loop).startSourceBlock held rest final).live = (s.startSourceBlock held rest final).live := by
  unfold State.startSourceBlock
  split <;> exact live_of_kept .block rfl

theorem readsLive_xReadall : ReadsLive .loop .xReadall := by
  intro s _ hstage
  refine ⟨_, _, rfl, rfl, live_ite rfl (live_ite (live_startSourceBlock _ _ _ _) ?_)⟩
  have hsrc : (s.blanked .loop).src = s.src := rfl
  rw [hsrc]
  split
  · exact live_of_kept .loop rfl (hs := hstage) (ht := hstage)
  · exact live_startSourceBlock _ _ _ _
  · rfl

/-- CHECK never raises E_HW. -/
theorem State.checkCommand_ne_hw (s : State) : s.checkCommand ≠ .error .hw := by
  have htests : ∀ refused op, s.streamTests refused op ≠ .error .hw := fun _ _ h => by cases State.streamTests_error h
  rcases s.checkCommand_cases with h | h | h | h | ⟨-, h⟩ <;> rw [h]
  · simp
  · simp
  · exact htests _ _
  · exact htests _ _
  · intro hw
    cases ht : s.streamTests s.blockRefused (.block (cmdFinal s.cmd) (cmdLen s.cmd)) with
    | error c =>
      rw [ht] at hw
      exact htests _ _ (ht.trans hw)
    | ok op => simp only [ht, bind, Except.bind] at hw; split at hw <;> cases hw

/-- A block that CHECK starts is no part of READ_ALL. -/
theorem State.inReadAll_of_checkCommand_block {s : State} {final : Bool} {len : BitVec 16}
    (h : s.checkCommand = .ok (.block final len)) : s.inReadAll = false := by
  rcases s.checkCommand_cases with h' | h' | h' | h' | ⟨hop, -⟩
  · cases h'.symm.trans h
  · cases h'.symm.trans h
  · cases ((s.streamTests_ok_iff _ _ _).mp (h'.symm.trans h)).2.2
  · cases ((s.streamTests_ok_iff _ _ _).mp (h'.symm.trans h)).2.2
  · simp [State.inReadAll, hop]

theorem readsLive_check : ReadsLive .check .check := by
  intro s _ _
  refine ⟨_, _, rfl, rfl, ?_⟩
  have hcheck : (s.blanked .check).checkCommand = s.checkCommand := rfl
  rw [hcheck]
  split
  · next c hc =>
    exact live_raise c 0 rfl fun h => absurd (h ▸ hc) s.checkCommand_ne_hw
  · rfl
  · rfl
  · rfl
  · next final len hc =>
    have hread : s.inReadAll = false := State.inReadAll_of_checkCommand_block hc
    have hcount : (if s.inReadAll then (0 : BitVec 64) else 0) = if s.inReadAll then s.rtotal else 0 := by simp [hread]
    split <;> exact live_of_kept .block hcount

theorem live_blanked_rest {s : State} (h : s.stage = .rest) : (s.blanked .rest).live = s.live :=
  live_of_kept .rest rfl (hs := h) (ht := h)

theorem stage_of_waiting {s : State} (hu : s.upc = Upc.idle ∨ s.upc = Upc.faulted) : s.stage = .rest := by
  rcases hu with h | h <;> rw [State.stage, h] <;> rfl

theorem live_writeCmd {s : State} (w : Word) (hu : s.upc = Upc.idle ∨ s.upc = Upc.faulted) :
    ((s.blanked .rest).writeCmd w).live = (s.writeCmd w).live := by
  have hupc : (s.blanked .rest).upc = s.upc := rfl
  unfold State.writeCmd
  rw [hupc]
  split_ifs with hi hf
  · rfl
  · exact live_blanked_rest (stage_of_waiting hu)
  · exact absurd hu (by simp [hi, hf])

/-- Outside a command the host's turn depends on the registers alone. -/
theorem live_hostTurn {s : State} (hu : s.upc = Upc.idle ∨ s.upc = Upc.faulted) :
    (s.blanked .rest).hostTurn.live = s.hostTurn.live := by
  have hscript : ∀ q, (({ s with script := q } : State).blanked .rest).live = ({ s with script := q } : State).live :=
    fun q => live_blanked_rest (stage_of_waiting (s := { s with script := q }) hu)
  have hsame : (s.blanked .rest).script = s.script := rfl
  unfold State.hostTurn
  rw [hsame]
  split
  · exact live_blanked_rest (stage_of_waiting hu)
  · next off w q _ =>
    exact live_ite (live_writeCmd (s := { s with script := q }) w hu) (hscript q)
  · next bytes q _ =>
    exact live_ite (live_blanked_rest (stage_of_waiting (s := { s with script := q, inMem := s.inMem.writeBytes 0 bytes }) hu)) rfl
  · next src q _ => exact live_blanked_rest (stage_of_waiting (s := { s with script := q, src := src }) hu)
  · rfl

/-- Every micro-operation of a running command reads its live fields alone. -/
theorem readsLive_of_microOp {i : Instr} (hfmt : (encode i).fmt = .upc) (hidle : i ≠ .idle) (hfaulted : i ≠ .faulted) :
    ReadsLive (stageOf i) i := by
  cases i with
  | idle => exact absurd rfl hidle
  | faulted => exact absurd rfl hfaulted
  | check => exact readsLive_check
  | xReset => exact readsLive_xReset
  | xClose => exact readsLive_xClose
  | xReadall => exact readsLive_xReadall
  | s1Select => exact readsLive_s1Select
  | s2Stat => exact readsLive_s2Stat
  | s3Eob => exact readsLive_s3Eob
  | s3HgenLl => exact readsLive_s3HgenLl
  | s3HgenD => exact readsLive_s3HgenD
  | s3CanonLl => exact readsLive_s3CanonLl
  | s3CanonD => exact readsLive_s3CanonD
  | s4Tokenize => exact readsLive_s4Tokenize
  | s4HgenCl => exact readsLive_s4HgenCl
  | s4CanonCl => exact readsLive_s4CanonCl
  | s4Prefix => exact readsLive_s4Prefix
  | s4Blkhdr => exact readsLive_s4Blkhdr
  | s4Counts => exact readsLive_s4Counts
  | s4Cllens => exact readsLive_s4Cllens
  | s4Seq => exact readsLive_s4Seq
  | s4Flush => exact readsLive_s4Flush
  | s5Encode => exact readsLive_s5Encode
  | s6Interpret => exact readsLive_s6Interpret
  | s6EmitCarry => exact readsLive_s6EmitCarry
  | s6EmitAll => exact readsLive_s6EmitAll
  | s6Stored => exact readsLive_s6Stored
  | s6Fatal => exact readsLive_s6Fatal
  | s7Update => exact readsLive_s7Update
  | zStored => exact readsLive_zStored
  | reset | writeBlock _ _ | close | readAll | hdrDynamic _ | hdrStored _ | clLen _ | clRep16 _ | clRep17 _ | clRep18 _
  | packedEntry _ _ => cases hfmt

theorem exists_decodeUpc_of_step {s t : State} (hwire : s.wire = none) (h : step s = .next t) :
    ∃ i, decodeUpc s.upc = .ok i := by
  rcases step_cases s with ⟨w, i, hw, -⟩ | ⟨w, hw, -⟩ | ⟨i, s', -, hc, -⟩ | ⟨i, -, -, hd, -⟩ | ⟨e, -, -, -, hs⟩
  · simp [hwire] at hw
  · simp [hwire] at hw
  · obtain ⟨w, q, hu, -⟩ := fetchCommand_some s i s' hc
    exact ⟨.idle, hu ▸ rfl⟩
  · exact ⟨i, hd⟩
  · cases hs.symm.trans h

/-- The step depends on the live fields alone. -/
theorem step_live {s : State} {i : Instr} (hmem : s.memoryInv) (hwire : s.wire = none) (hd : decodeUpc s.upc = .ok i) :
    ∃ t t', step s = .next t ∧ step s.live = .next t' ∧ t'.live = t.live := by
  have hstage : s.stage = stageOf i := by simp [State.stage, hd, accepted]
  have hlive : s.live = s.blanked (stageOf i) := by rw [State.live, hstage]
  have hu : ∀ {u}, encode i = upcWord u → s.upc = u := fun hi => upcWord_injective ((encode_of_decodeUpc hd).symm.trans hi)
  by_cases hidle : i = .idle
  · subst hidle
    have hupc := hu (u := Upc.idle) rfl
    rw [hlive]
    exact ⟨_, _, step_of_idle hwire hupc, step_of_idle hwire hupc, live_hostTurn (.inl hupc)⟩
  by_cases hfaulted : i = .faulted
  · subst hfaulted
    have hupc := hu (u := Upc.faulted) rfl
    rw [hlive]
    exact ⟨_, _, step_of_faulted hwire hupc, step_of_faulted hwire hupc, live_hostTurn (.inr hupc)⟩
  have hne : s.upc ≠ Upc.idle := fun h => by
    rw [h] at hd
    exact hidle (Except.ok.inj hd).symm
  obtain ⟨t, t', ht, ht', h⟩ :=
    readsLive_of_microOp (congrArg Encoded.fmt (encode_of_decodeUpc hd)) hidle hfaulted s hmem hstage
  rw [hlive]
  exact ⟨t, t', (step_eq_exec hwire hne hd).trans ht,
    (step_eq_exec (s := s.blanked (stageOf i)) hwire hne hd).trans ht', h⟩

/-- Two states that the commands still to come cannot tell apart. -/
structure State.Alike (s t : State) : Prop where
  live : s.live = t.live
  memory : s.memoryInv ∧ t.memoryInv
  accumulator : s.accumulatorInv ∧ t.accumulatorInv

theorem State.Alike.step {s t a : State} (h : s.Alike t) (hs : Machine.step s = .next a) :
    ∃ b, Machine.step t = .next b ∧ a.Alike b := by
  obtain ⟨hlive, ⟨hms, hmt⟩, has, hat⟩ := h
  have hupc : s.upc = t.upc := (congrArg State.upc hlive :)
  obtain ⟨i, hd⟩ := exists_decodeUpc_of_step has.1 hs
  obtain ⟨a₁, a', ha₁, ha', hlivea⟩ := step_live hms has.1 hd
  obtain ⟨b, b', hb, hb', hliveb⟩ := step_live hmt hat.1 (hupc ▸ hd)
  obtain rfl := Host.Outcome.next.inj (ha₁.symm.trans hs)
  rw [hlive] at ha'
  obtain rfl := Host.Outcome.next.inj (ha'.symm.trans hb')
  exact ⟨b, hb, hlivea.symm.trans hliveb, ⟨stepKeepsMemoryCanonical s _ hms hs, stepKeepsMemoryCanonical t b hmt hb⟩,
    stepKeepsAccumulatorInv s _ has hs, stepKeepsAccumulatorInv t b hat hb⟩

theorem State.Alike.run {s t a : State} {k : Nat} (h : s.Alike t) (hs : Host.Core.run core k s = .next a) :
    ∃ b, Host.Core.run core k t = .next b ∧ a.Alike b := by
  induction k generalizing s t with
  | zero =>
    obtain rfl := Host.Outcome.next.inj hs
    exact ⟨t, rfl, h⟩
  | succ k ih =>
    obtain ⟨s', hs'⟩ := exists_step_of_run hs
    obtain ⟨t', ht', h'⟩ := h.step hs'
    rw [run_succ k ht']
    exact ih h' ((run_succ k hs').symm.trans hs)

/-- RESET leaves two streams with the same inputs alike. -/
theorem alike_of_xReset {s t : State} (hin : State.sameInputs s t) (hfault : s.fault = t.fault) (hs : s.memoryInv)
    (ht : t.memoryInv) : ∃ a b, exec .xReset s = .next a ∧ exec .xReset t = .next b ∧ a.Alike b := by
  obtain ⟨hscript, hxfer, hjob, hsinkQ, hsrc, hinMem, hpar, hnodev, hws, hwt⟩ := hin
  refine ⟨_, _, rfl, rfl, ?_, ⟨hs, ht⟩, State.accumulatorInv_of_clear hws ⟨rfl, rfl, rfl, rfl⟩,
    State.accumulatorInv_of_clear hwt ⟨rfl, rfl, rfl, rfl⟩⟩
  refine live_of_kept .rest rfl (hregs := ?_)
  simp only [State.blanked, State.kept, State.finish, State.setResult, State.goto, hscript, hxfer, hjob, hsinkQ, hsrc, hinMem,
    hpar, hnodev, hfault, hws, hwt]

/-- Settles O58: after RESET the streams are alike, and each step depends on the live fields alone. -/
theorem resetForgetsTheEarlierStream : Obligations.ResetForgetsTheEarlierStream := by
  intro s t hus hut hms hmt hin hfault k a ha
  obtain ⟨-, -, -, -, -, -, -, -, hws, hwt⟩ := id hin
  obtain ⟨s', t', hs', ht', h⟩ := alike_of_xReset hin hfault hms hmt
  have hstep : ∀ {x : State}, x.upc = Upc.xReset → x.wire = none → step x = exec .xReset x := fun hu hw =>
    step_eq_exec hw (hu ▸ by decide) (hu ▸ rfl)
  obtain ⟨b, hb, hab⟩ := h.run ((run_succ k ((hstep hus hws).trans hs')).symm.trans ha)
  exact ⟨b, (run_succ k ((hstep hut hwt).trans ht')).trans hb, (State.observed_of_live hab.live).symm⟩

end Sys2Proof.Machine

/-! Proofs of the statements about the exceptions (spec/60_exceptions.md). -/

namespace Sys2Proof.Machine

/-! ### The host's turn (R350, R36, R68) -/

theorem hostTurn_csrWrite {s : State} {w : Word} {q : List HostAction} (h : s.script = .csrWrite 0 w :: q) :
    s.hostTurn = ({ s with script := q } : State).writeCmd w := by
  rw [State.hostTurn, h]
  rfl

theorem State.writeCmd_of_idle {s : State} (w : Word) (h : s.upc = Upc.idle) :
    s.writeCmd w = { s with cmd := w, upc := Upc.check } :=
  if_pos h

theorem State.writeCmd_of_faulted {s : State} (w : Word) (h : s.upc = Upc.faulted) : s.writeCmd w = s := by
  rcases s.writeCmd_cases w with ⟨hidle, -⟩ | ⟨-, hw⟩ | ⟨-, hne, -⟩
  · exact absurd (hidle.symm.trans h) (by decide)
  · exact hw
  · exact absurd h hne

theorem State.writeCmd_of_busy {s : State} (w : Word) (hidle : s.upc ≠ Upc.idle) (hfaulted : s.upc ≠ Upc.faulted) :
    s.writeCmd w = { s with script := .csrWrite 0 w :: s.script } :=
  (if_neg hidle).trans (if_neg hfaulted)

theorem hostTurn_command {s : State} {w : Word} {q : List HostAction} (hu : s.upc = Upc.idle)
    (h : s.script = .csrWrite 0 w :: q) : s.hostTurn = { s with script := q, cmd := w, upc := Upc.check } :=
  (hostTurn_csrWrite h).trans (State.writeCmd_of_idle (s := { s with script := q }) w hu)

theorem hostTurn_ignored {s : State} {off : Nat} {w : Word} {q : List HostAction} (hoff : off ≠ 0)
    (h : s.script = .csrWrite off w :: q) : s.hostTurn = { s with script := q } := by
  rw [State.hostTurn, h]
  exact if_neg hoff

theorem hostTurn_loadIn {s : State} {bytes : List Byte} {q : List HostAction} (h : s.script = .loadIn bytes :: q) :
    s.hostTurn = ({ s with script := q } : State).loadIn bytes := by
  rw [State.hostTurn, h]

theorem State.loadIn_of_le {s : State} {bytes : List Byte} (h : bytes.length ≤ 32768) :
    s.loadIn bytes = { s with inMem := s.inMem.writeBytes 0 bytes } :=
  if_pos (inRegion_of_le ((Nat.zero_add _).trans_le h))

/-- In the fault state the host can reset the hardware, and otherwise changes nothing that is observed. -/
theorem State.hostTurn_of_faulted {s : State} (hu : s.upc = Upc.faulted) :
    (∃ ready q, s.script = .hardwareReset ready :: q ∧ s.hostTurn = { s with script := q }.hardwareReset ready) ∨
      s.hostTurn.upc = Upc.faulted ∧ s.hostTurn.wire = s.wire ∧ s.hostTurn.script = s.script.tail ∧
        (s.fault = true → s.hostTurn.observed = s.observed) := by
  rcases s.hostTurn_cases with ⟨hq, h⟩ | ⟨w, q, hq, h⟩ | ⟨off, w, q, -, hq, h⟩ | ⟨bytes, q, hq, h⟩ | ⟨src, q, hq, h⟩ | hreset
  · exact .inr ⟨by rw [h, hu], by rw [h], by rw [h, hq, List.tail_nil], fun _ => by rw [h]⟩
  · rw [State.writeCmd_of_faulted (s := { s with script := q }) w hu] at h
    exact .inr (by rw [h, hq]; exact ⟨hu, rfl, rfl, fun _ => rfl⟩)
  · exact .inr (by rw [h, hq]; exact ⟨hu, rfl, rfl, fun _ => rfl⟩)
  · rcases State.loadIn_cases { s with script := q } bytes with ⟨-, hl⟩ | ⟨-, hl⟩ <;> rw [hl] at h
    · exact .inr (by rw [h, hq]; exact ⟨hu, rfl, rfl, fun _ => rfl⟩)
    · exact .inr (by rw [h, hq]; exact ⟨rfl, rfl, rfl, fun hf => by simp [State.observed, State.enterFault, hf, hu]⟩)
  · exact .inr (by rw [h, hq]; exact ⟨hu, rfl, rfl, fun _ => rfl⟩)
  · exact .inl hreset

/-- Settles O6: at IDLE the step is the host's turn, and a legal word is the word of its command. -/
theorem stepRunsCommand : Obligations.StepRunsCommand := by
  intro s w q hwire hu hq
  have hstep : step s = .next s.hostTurn := step_of_idle hwire hu
  refine ⟨hstep.trans (congrArg _ (hostTurn_command hu hq)), fun i hd => ?_⟩
  rw [hstep, exec_of_decodeCommand hd, encode_of_decodeCommand hd, hostTurn_csrWrite hq]

/-- Settles O10, action by action. -/
theorem idleTakesTheHostsTurn : Obligations.IdleTakesTheHostsTurn := by
  intro s hu
  have hexec : exec .idle s = .next s.hostTurn := rfl
  rw [hexec]
  refine ⟨fun hq => ?_, fun w q hq => ?_, fun off w q hoff hq => ?_, fun bytes q hlen hq => ?_, fun src q hq => ?_⟩
  · rw [State.hostTurn, hq]
  · rw [hostTurn_command hu hq]
  · rw [hostTurn_ignored hoff hq]
  · have hturn := (hostTurn_loadIn hq).trans (State.loadIn_of_le hlen)
    refine ⟨_, congrArg _ hturn, rfl, fun ⟨hin, _⟩ => ?_, fun a ha => ?_⟩
    · exact (Memory.readBytes_writeBytes hin bytes le_rfl).trans List.take_length
    · exact s.inMem.read_writeBytes_outside 0 a bytes (.inr ((Nat.zero_add _).trans_le ha))
  · rw [State.hostTurn, hq]

/-- A run in the fault state, the host not resetting the hardware: it goes on, and nothing that is observed changes. -/
theorem State.runsTo_of_faulted {s : State} (k : Nat) (hwire : s.wire = none) (hf : s.fault = true) (hu : s.upc = Upc.faulted)
    (hhost : ∀ ready, HostAction.hardwareReset ready ∉ s.script) : RunsTo k s fun t => t.observed = s.observed := by
  induction k generalizing s with
  | zero => exact ⟨s, rfl, rfl⟩
  | succ k ih =>
    rcases State.hostTurn_of_faulted hu with ⟨ready, q, hq, -⟩ | ⟨hu', hw', hq', hobs⟩
    · exact absurd (hq ▸ List.mem_cons_self) (hhost ready)
    · have hobs := hobs hf
      have hf' : s.hostTurn.fault = true := (congrArg Observed.fault hobs).trans hf
      have hrun := ih (hw'.trans hwire) hf' hu' fun ready h => hhost ready (List.mem_of_mem_tail (hq' ▸ h))
      exact runsTo_succ (step_of_faulted hwire hu) (hobs ▸ hrun)

/-- Settles O11: every turn of the host but hardware reset leaves what is observed, FAULT and UPC among it. -/
theorem onlyHardwareResetLeavesTheFaultState : Obligations.OnlyHardwareResetLeavesTheFaultState := by
  refine ⟨fun s r => rfl, fun s hu => ⟨fun hq => ?_, fun w q hq => ?_⟩, fun s k hwire hf hu hhost => ?_⟩
  · exact congrArg Host.Outcome.next (by rw [State.hostTurn, hq])
  · exact congrArg Host.Outcome.next
      ((hostTurn_csrWrite hq).trans (State.writeCmd_of_faulted (s := { s with script := q }) w hu))
  · obtain ⟨t, hrun, hobs⟩ := State.runsTo_of_faulted k hwire hf hu hhost
    exact ⟨t, hrun, (congrArg Observed.fault hobs).trans hf, (congrArg Observed.upc hobs).trans hu, hobs⟩

/-- Settles O9: every command's step is the write of its word. -/
theorem commandWrite : Obligations.CommandWrite := by
  intro i s hi
  have hexec : exec i s = .next (s.writeCmd (encode i).bits) := by rcases hi with rfl | ⟨final, len, rfl⟩ | rfl | rfl <;> rfl
  rw [hexec]
  exact ⟨fun hu => congrArg _ (State.writeCmd_of_idle _ hu), fun hu => congrArg _ (State.writeCmd_of_faulted _ hu),
    fun hidle hfaulted => congrArg _ (State.writeCmd_of_busy _ hidle hfaulted)⟩

/-! ### A raise and a failing sink (R333, R336) -/

theorem ErrClass.latches_iff (c : ErrClass) : c.latches = true ↔ c = .hw ∨ c = .sink := by cases c <;> decide

theorem State.raiseBlock_eq (s : State) (c : ErrClass) :
    s.raiseBlock c =
      { s with
        eclass := c.code
        hwstatus := if c = .hw then s.cr.status else 0
        hwerr := if c = .hw then s.cr.error else 0
        count := if cmdOp s.cmd = 4#4 then s.rtotal else 0
        err := if c = .hw ∨ c = .sink then true else s.err
        upc := Upc.idle } := by
  have herr : (s.err || c.latches) = if c = .hw ∨ c = .sink then true else s.err := by
    simp only [← c.latches_iff]
    cases c.latches <;> simp
  rw [State.raiseBlock, s.abandonCount_eq, ← herr]
  rfl

/-- Settles O19: one equation for every class, and the codes class by class. -/
theorem raiseRecords : Obligations.RaiseRecords := fun s c =>
  ⟨s.raiseBlock_eq c, by rintro rfl; rfl, by rintro rfl; rfl, by rintro rfl; rfl, by rintro rfl; rfl, by rintro rfl; rfl,
    by rintro rfl; rfl, by rintro rfl; rfl, by rintro rfl; rfl⟩

section
variable {s : State} {k : Nat} {q : List SinkAnswer}

/-- The command ended by a sink that has taken `k` of the bytes (R336). -/
def State.sinkFailed (s : State) (k : Nat) (q : List SinkAnswer) (bytes : List Byte) : State :=
  { s with
    sink := s.sink ++ bytes.take k, sinkQ := q, err := true, eclass := 6, hwstatus := 0, hwerr := 0
    count := if cmdOp s.cmd = 4#4 then s.rtotal else 0, upc := Upc.idle }

theorem State.emit_of_fails (h : s.sinkQ = .fail k :: q) (bytes : List Byte) (next : State → State) :
    s.emit bytes next = s.sinkFailed k q bytes := by
  rcases s.emit_cases bytes next with ⟨q', -, ⟨hq, -⟩ | hq⟩ | ⟨k', q', hq, he⟩
  · cases h.symm.trans hq
  · cases h.symm.trans hq
  · cases h.symm.trans hq
    rw [he, State.raiseBlock_eq]
    rfl

end

/-- Settles O47: each of the five appends hands its bytes to the sink, which fails. -/
theorem sinkErrorEndsTheCommand : Obligations.SinkErrorEndsTheCommand := by
  intro s k q h after p
  have hfails : ∀ bytes next, s.emit bytes next = after bytes := State.emit_of_fails h
  refine ⟨fun hpos hcap => ?_, fun hcap => ?_, fun hn => ?_, congrArg _ (hfails _ _), fun b hn hu => ?_⟩
  · show execS6EmitCarry s = _
    rw [execS6EmitCarry, if_neg (Nat.ne_of_gt hpos), memReadBytes_of_le _ (by omega)]
    exact congrArg _ (hfails _ _)
  · show execS6EmitAll s = _
    rw [execS6EmitAll, memReadBytes_of_le _ (by omega)]
    exact congrArg _ (hfails _ _)
  · show execS6Stored s = _
    rw [execS6Stored, State.readBlock_of_le hn]
    exact congrArg _ (hfails _ _)
  · show execHdrStored b s = _
    rw [execHdrStored, if_neg hu, State.readBlock_of_le hn]
    exact congrArg _ (hfails _ _)

/-! ### What a failed block leaves (R333) -/

/-- The registers and the sink that a failed block leaves as they were, and what its command's way through the sequence depends
on. -/
structure BlockRegs where
  wire : Option WireWord
  cmd : Word
  sink : List Byte
  cb : BitVec 7
  cbn : BitVec 3
  crc : BitVec 32
  tgl : Bool
  fin : Bool

/-- The block's registers of a state. -/
def State.blockRegs (s : State) : BlockRegs :=
  { wire := s.wire, cmd := s.cmd, sink := s.sink, cb := s.cb, cbn := s.cbn, crc := s.crc, tgl := s.tgl, fin := s.fin }

theorem State.blockRegs_setCur (s : State) (a : Aecs) : (s.setCur a).blockRegs = s.blockRegs := by simp [State.blockRegs]

theorem State.blockRegs_setBitWriter (s : State) (b : BitWriter) : (s.setBitWriter b).blockRegs = s.blockRegs := by
  simp [State.blockRegs]

theorem State.blockRegs_afterJob (s : State) (j : Job) (r : JobAnswer) : (s.afterJob j r).blockRegs = s.blockRegs := by
  rw [s.afterJob_eq]
  rfl

theorem State.blockRegs_writeFields (s : State) (fs : List Field) (u : BitVec 8) :
    (s.writeFields fs u).blockRegs = s.blockRegs := by
  rcases s.writeFields_cases fs u with ⟨b, -, h⟩ | ⟨r, b, -, h⟩ <;> rw [h] <;> exact s.blockRegs_setBitWriter b

theorem State.blockRegs_submit {s : State} (j : Job) (fits : Nat → Bool) {done : State → State}
    (hdone : ∀ t, (done t).blockRegs = t.blockRegs) : (s.submit j fits done).blockRegs = s.blockRegs := by
  rcases s.submit_cases j fits done with ⟨h, -⟩ | ⟨m, q, -, -, h⟩ | ⟨m, q, r, q', -, -, -, h⟩ <;> rw [h]
  · rfl
  · exact (hdone _).trans (State.blockRegs_afterJob _ j r)

section
variable {s t : State}

theorem exec_check_blockRegs (ht : exec .check s = .next t) : t.blockRegs = s.blockRegs := by
  rcases exec_check_cases s with ⟨c, hc⟩ | hc | hc | ⟨-, -, -, hc⟩ | ⟨final, len, -, -, hc⟩ <;>
    exact Host.Outcome.next.inj (hc.symm.trans ht) ▸ rfl

theorem exec_xReadall_blockRegs (ht : exec .xReadall s = .next t) : t.blockRegs = s.blockRegs := by
  rcases execXReadall_cases s with ⟨-, hc⟩ | ⟨-, -, hc⟩ | ⟨-, -, -, hc⟩ | ⟨-, -, -, hc⟩ | ⟨-, -, -, hc⟩ <;>
    exact Host.Outcome.next.inj (hc.symm.trans ht) ▸ rfl

theorem exec_s2Stat_blockRegs (ht : exec .s2Stat s = .next t) : t.blockRegs = s.blockRegs :=
  Host.Outcome.next.inj ht ▸ State.blockRegs_submit _ _ fun u => by split <;> rfl

theorem exec_s3CanonLl_blockRegs (ht : exec .s3CanonLl s = .next t) : t.blockRegs = s.blockRegs := by
  obtain rfl := Host.Outcome.next.inj ht
  split
  · rfl
  · dsimp only
    split
    · rfl
    · exact s.blockRegs_setCur _

theorem exec_s3CanonD_blockRegs (ht : exec .s3CanonD s = .next t) : t.blockRegs = s.blockRegs := by
  obtain rfl := Host.Outcome.next.inj ht
  dsimp only
  split
  · rfl
  · exact s.blockRegs_setCur _

theorem exec_s4Flush_blockRegs (ht : exec .s4Flush s = .next t) : t.blockRegs = s.blockRegs := by
  obtain rfl := Host.Outcome.next.inj ht
  split
  · exact s.blockRegs_setBitWriter _
  · exact (State.blockRegs_setCur _ _).trans (s.blockRegs_setBitWriter _)

theorem exec_s6Interpret_blockRegs (ht : exec .s6Interpret s = .next t) : t.blockRegs = s.blockRegs := by
  rcases exec_s6Interpret_cases s with hc | ⟨-, hc⟩ | hc | hc <;>
    exact Host.Outcome.next.inj (hc.symm.trans ht) ▸ rfl

end

/-! ### From the block's append on, only E_SINK can end the command with an error (R333, R336) -/

theorem State.Answered.wire_eq {n : Nat} {s : State} (h : s.Answered n) : s.wire = none := by
  obtain ⟨hwire, -⟩ := h
  exact hwire

theorem State.Answered.inReadAll_eq {n : Nat} {s : State} (h : s.Answered n) : s.inReadAll = false := by
  obtain ⟨-, hop, -⟩ := h
  exact decide_eq_false hop

theorem State.answered_of_blockRegs {s t : State} (h : t.blockRegs = s.blockRegs) (hs : s.Answered 0) : t.Answered 0 := by
  simp only [State.blockRegs, BlockRegs.mk.injEq] at h
  obtain ⟨hwire, hcmd, -⟩ := h
  obtain ⟨hnone, hop, -⟩ := hs
  exact ⟨hwire.trans hnone, hcmd ▸ hop, Nat.zero_le _, Nat.zero_le _⟩

/-- No error but E_SINK ends the command: its block has been appended and S7.UPDATE is next, or the DFE is in its fault state, or the
command has ended with success or with E_SINK. -/
def State.Settled (t : State) : Prop :=
  t.wire = none ∧ t.upc = Upc.faulted ∨ t.Answered 0 ∧ t.upc = Upc.s7Update ∨ t.upc = Upc.idle ∧ (t.eclass = 0 ∨ t.eclass = 6)

section
variable {s t : State}

theorem State.settled_enterFault (r : FaultReason) (hs : s.Answered 0) : (s.enterFault r).Settled := .inl ⟨hs.wire_eq, rfl⟩

theorem State.settled_update (ht : t.Answered 0) (hu : t.upc = Upc.s7Update) : t.Settled := .inr (.inl ⟨ht, hu⟩)

theorem State.settled_success (hu : t.upc = Upc.idle) (he : t.eclass = 0) : t.Settled := .inr (.inr ⟨hu, .inl he⟩)

theorem State.settled_sinkError (hu : t.upc = Upc.idle) (he : t.eclass = 6) : t.Settled := .inr (.inr ⟨hu, .inr he⟩)

theorem State.settled_endBlock (n : BitVec 64) (hs : s.Answered 0) : (s.endBlock n).Settled := by
  rcases s.endBlock_cases n with ⟨-, h⟩ | ⟨hread, -⟩
  · exact h ▸ State.settled_success rfl rfl
  · exact absurd (hread.symm.trans hs.inReadAll_eq) (by decide)

theorem State.settled_emit {bytes : List Byte} {next : State → State} (hs : s.Answered 0)
    (hnext : ∀ t : State, t.Answered 0 → (next t).Settled) : (s.emit bytes next).Settled := by
  rcases s.emit_cases bytes next with ⟨q, h, -⟩ | ⟨k, q, -, h⟩ <;> rw [h]
  · exact hnext { s with sink := s.sink ++ bytes, sinkQ := q } hs
  · exact State.settled_sinkError rfl rfl

theorem State.settled_holdCarry (hs : s.Answered 0) : s.holdCarry.Settled := by
  unfold State.holdCarry
  split
  · exact State.settled_enterFault _ hs
  · exact State.settled_update hs rfl

theorem State.settled_hostTurn (hwire : s.wire = none) (hu : s.upc = Upc.faulted) : s.hostTurn.Settled := by
  rcases State.hostTurn_of_faulted hu with ⟨ready, q, -, h⟩ | ⟨hu', hw', -⟩
  · exact h ▸ State.settled_success rfl rfl
  · exact .inl ⟨hw'.trans hwire, hu'⟩

theorem exec_s6EmitCarry_settled (hs : s.Answered 0) (ht : exec .s6EmitCarry s = .next t) : t.Settled := by
  obtain rfl := Host.Outcome.next.inj ht
  split
  · exact State.settled_enterFault _ hs
  · split
    · exact State.settled_enterFault _ hs
    · exact State.settled_emit hs fun _ => State.settled_holdCarry

theorem exec_s7Update_settled (hs : s.Answered 0) (ht : exec .s7Update s = .next t) : t.Settled := by
  have hnew : ∀ c k, State.Answered 0 { s with crc := c, tgl := k } := fun _ _ => hs
  obtain rfl := Host.Outcome.next.inj ht
  split
  · exact State.settled_endBlock _ (hnew _ _)
  · split
    · exact State.settled_enterFault _ hs
    · exact State.settled_endBlock _ (hnew _ _)

theorem exec_zStored_settled (hs : s.Answered 0) (ht : exec .zStored s = .next t) : t.Settled :=
  Host.Outcome.next.inj ht ▸ State.settled_emit hs fun u hans => State.settled_endBlock (s := u.clearCarry) 0 hans

/-- From `s` to `t` the stream is as it was, or no error but E_SINK can come any more. -/
def State.Clean (s t : State) : Prop := t.blockRegs = s.blockRegs ∨ t.Settled

/-- Every micro-operation before the block's append leaves the stream; the append and what follows it settle the block. -/
theorem microOp_clean {i : Instr} (hd : decodeUpc s.upc = .ok i) (hidle : s.upc ≠ Upc.idle) (hs : s.Answered 0)
    (ht : exec i s = .next t) : s.Clean t := by
  have he := encode_of_decodeUpc hd
  cases i with
  | idle => exact absurd (upcWord_injective he).symm hidle
  | check => exact .inl (exec_check_blockRegs ht)
  | xReadall => exact .inl (exec_xReadall_blockRegs ht)
  | s1Select => exact .inl (Host.Outcome.next.inj ht ▸ s.blockRegs_setCur _)
  | s2Stat => exact .inl (exec_s2Stat_blockRegs ht)
  | s3Eob => exact .inl (Host.Outcome.next.inj ((exec_s3Eob s).symm.trans ht) ▸ s.blockRegs_setCur _)
  | s3HgenLl | s3HgenD | s4HgenCl | s4CanonCl =>
    obtain rfl := Host.Outcome.next.inj ht
    exact .inl (by split <;> rfl)
  | s3CanonLl => exact .inl (exec_s3CanonLl_blockRegs ht)
  | s3CanonD => exact .inl (exec_s3CanonD_blockRegs ht)
  | s4Prefix | s4Blkhdr | s4Counts | s4Cllens | s4Seq => exact .inl (Host.Outcome.next.inj ht ▸ s.blockRegs_writeFields _ _)
  | s4Flush => exact .inl (exec_s4Flush_blockRegs ht)
  | s5Encode => exact .inl (Host.Outcome.next.inj ht ▸ State.blockRegs_submit _ _ fun _ => rfl)
  | s6Interpret => exact .inl (exec_s6Interpret_blockRegs ht)
  | s4Tokenize | s6Fatal => exact .inl (Host.Outcome.next.inj ht ▸ rfl)
  | s6EmitCarry => exact .inr (exec_s6EmitCarry_settled hs ht)
  | s6EmitAll | s6Stored =>
    obtain rfl := Host.Outcome.next.inj ht
    split
    · exact .inr (State.settled_enterFault _ hs)
    · exact .inr (State.settled_emit hs fun _ hans => State.settled_update hans rfl)
  | s7Update => exact .inr (exec_s7Update_settled hs ht)
  | zStored => exact .inr (exec_zStored_settled hs ht)
  | xReset | xClose => exact .inr (Host.Outcome.next.inj ht ▸ State.settled_success rfl rfl)
  | faulted => exact .inr (Host.Outcome.next.inj ht ▸ State.settled_hostTurn hs.wire_eq (upcWord_injective he).symm)
  | reset | writeBlock _ _ | close | readAll | hdrDynamic _ | hdrStored _ | clLen _ | clRep16 _ | clRep17 _ | clRep18 _
  | packedEntry _ _ => cases (congrArg Encoded.fmt he : _ = Format.upc)

/-- S7.UPDATE ends the command or meets a fault, and the fault state is left by hardware reset alone. -/
theorem State.Settled.step (h : s.Settled) (hu : s.upc ≠ Upc.idle) (ht : Machine.step s = .next t) : t.Settled := by
  rcases h with ⟨hwire, hfaulted⟩ | ⟨hs, hupdate⟩ | ⟨hidle, -⟩
  · exact Host.Outcome.next.inj ((step_of_faulted hwire hfaulted).symm.trans ht) ▸ State.settled_hostTurn hwire hfaulted
  · exact exec_s7Update_settled hs ((step_eq_exec_of_upc hs.wire_eq hupdate (by decide) rfl).symm.trans ht)
  · exact absurd hidle hu

/-- One step outside IDLE from a state `u` that the command checked in `s` has reached. -/
theorem State.Clean.step {u : State} (hs : s.Answered 0) (h : s.Clean u) (hu : u.upc ≠ Upc.idle)
    (ht : Machine.step u = .next t) : s.Clean t := by
  rcases h with hregs | hsettled
  · have hans := State.answered_of_blockRegs hregs hs
    obtain ⟨i, hd⟩ := exists_decodeUpc_of_step hans.wire_eq ht
    have hclean := microOp_clean hd hu hans ((step_eq_exec hans.wire_eq hu hd).symm.trans ht)
    exact hclean.imp_left fun h => h.trans hregs
  · exact .inr (hsettled.step hu ht)

/-- A run that does not come to IDLE before its last state, so that no new command starts in it. -/
theorem State.Clean.run {u : State} {k : Nat} (hs : s.Answered 0) (h : s.Clean u)
    (hbusy : ∀ j, j < k → RunsTo j u fun v => v.upc ≠ Upc.idle) (ht : Host.Core.run core k u = .next t) : s.Clean t := by
  induction k generalizing u with
  | zero => exact Host.Outcome.next.inj ht ▸ h
  | succ k ih =>
    obtain ⟨_, hzero, hu⟩ := hbusy 0 k.succ_pos
    obtain rfl := Host.Outcome.next.inj hzero
    obtain ⟨v, hv⟩ := exists_step_of_run ht
    refine ih (h.step hs hu hv) (fun j hj => ?_) ((run_succ k hv).symm.trans ht)
    obtain ⟨w, hw, hne⟩ := hbusy (j + 1) (Nat.succ_lt_succ hj)
    exact ⟨w, (run_succ j hv).symm.trans hw, hne⟩

end

/-- Settles O59: where the run ends with another error, it has not reached the block's append. -/
theorem failedBlockLeavesTheStream : Obligations.FailedBlockLeavesTheStream := by
  intro s k t hwire _ hop _ hbusy hrun hidle hok hsink
  have hs : s.Answered 0 := ⟨hwire, hop, Nat.zero_le _, Nat.zero_le _⟩
  have hclean : s.Clean t := State.Clean.run hs (.inl rfl) hbusy hrun
  rcases hclean with hregs | ⟨-, hu⟩ | ⟨-, hu⟩ | ⟨-, he | he⟩
  · simp only [State.blockRegs, BlockRegs.mk.injEq] at hregs
    obtain ⟨-, -, hsame⟩ := hregs
    exact hsame
  · exact absurd (hidle.symm.trans hu) (by decide)
  · exact absurd (hidle.symm.trans hu) (by decide)
  · exact absurd he hok
  · exact absurd he hsink

end Sys2Proof.Machine
